-- ==== Sys2Proof/Word.lean ====
section
/-! DEFINITION. The two word types of the engine: the byte and the bit (spec/00_scope.md section 5.1). -/

namespace Sys2Proof

/-- A byte: an unsigned 8-bit value, bits numbered 7 down to 0 (spec/00_scope.md section 5.1). -/
abbrev Byte := BitVec 8

/-- A bit: 0 or 1; `NOT s` is `1 - s` (spec/00_scope.md section 5.1). -/
abbrev Bit := BitVec 1

end Sys2Proof
end

