-- ==== Sys2Proof/Config.lean ====
section
/-! DEFINITION. The parameters of the engine (R8 of spec/00_scope.md): the three fixed byte values of the
framing and the parameters the spec leaves OPEN, `MAX_PAYLOAD` and the register widths `ATT_W` and `TMO_W`. -/

namespace Sys2Proof

/-- R8: `FLAG`, the frame marker byte. -/
def flag : Byte := 0x7E

/-- R8: `ESC`, the escape byte. -/
def esc : Byte := 0x7D

/-- R8: `ESC_MASK`, the XOR mask applied to an escaped byte. -/
def escMask : Byte := 0x20

/-- What is fixed per engine and OPEN in the spec (R8, U13, U14). It is carried beside the engine's record `S`, never
in it (R29 (a)), and no step changes it. -/
structure Config where
  /-- `MAX_PAYLOAD`: the largest payload of an Information frame. -/
  maxPayload : Nat
  /-- `ATT_W`: the width of `S.max_attempts` and `S.attempts`, in bits. -/
  attW : Nat
  /-- `TMO_W`: the width of `S.timeout` and `S.timer_cnt`, in bits. -/
  tmoW : Nat
deriving DecidableEq, Repr

/-- R8, D34, N4: the spec gives `MAX_PAYLOAD` no value. No body: nothing in Lean can evaluate it or prove a
value of it (assumption log 1). -/
opaque Config.openMaxPayload : Nat

/-- R8, U14, D34: the bits of `ATT_W` beyond the first; no body (assumption log 10). -/
opaque Config.openAttW : Nat

/-- R8, U14, D34: the bits of `TMO_W` beyond the first; no body (assumption log 10). -/
opaque Config.openTmoW : Nat

/-- The parameters of the engine, no value of them fixed. DESIGN CHOICE: a register has at least one bit
(assumption log 10). -/
def Config.unfixed : Config :=
  { maxPayload := Config.openMaxPayload, attW := Config.openAttW + 1, tmoW := Config.openTmoW + 1 }

end Sys2Proof
end

