-- ==== Sys2Proof/Syntax.lean ====
section
/-! DEFINITION. The instructions: one constructor per row of spec/opcode_table.json. -/

namespace Sys2Proof

/-- R15: the role of a session. -/
inductive Role where
  | initiator
  | responder
deriving DecidableEq, Repr

/-- The sixteen rows of the opcode table.

Formats S and I (rules R93 to R98) are the nine frames as the engine takes them from the line: `a` is the
address byte, `p` the destuffed payload and `bcc2` the received payload checksum, so that a damaged
Information frame (checksum not `XorFold p`) is an instruction like any other.
Format H (rule R73) are the four host operations with their operands.
Format P (rule R76) are the symbols of the protected region of an Information frame. -/
inductive Instr where
  /-- SET: request to establish (R93). -/
  | set (a : Byte)
  /-- UA: acknowledges SET and ends a close (R94). -/
  | ua (a : Byte)
  /-- DISC: request to tear down (R95). -/
  | disc (a : Byte)
  /-- RR 0: the receiver expects number 0 next (R96). -/
  | rr0 (a : Byte)
  /-- RR 1: the receiver expects number 1 next (R96). -/
  | rr1 (a : Byte)
  /-- REJ 0 (R97). -/
  | rej0 (a : Byte)
  /-- REJ 1 (R97). -/
  | rej1 (a : Byte)
  /-- Information frame number 0 (R98). -/
  | i0 (a : Byte) (p : List Byte) (bcc2 : Byte)
  /-- Information frame number 1 (R98). -/
  | i1 (a : Byte) (p : List Byte) (bcc2 : Byte)
  /-- OPEN(role, max_attempts, timeout) (R117). -/
  | openOp (role : Role) (maxAttempts timeout : Nat)
  /-- SEND(p) (R130). -/
  | send (p : List Byte)
  /-- RECEIVE (R137). -/
  | receive
  /-- CLOSE (R122, R128). -/
  | close
  /-- The pair `7D 5E`, standing for the data byte `7E` (R76). -/
  | escFlag
  /-- The pair `7D 5D`, standing for the data byte `7D` (R76). -/
  | escEsc
  /-- A byte of the protected region that stands for itself (R76). -/
  | literal (v : Byte)
deriving DecidableEq, Repr

end Sys2Proof
end

