-- ==== Sys2Proof/Machine/Operands.lean ====
section
/-! DEFINITION. The operand forms of a frame: the address byte and the control byte, how each is composed and
how each is recognised (spec/30_encoding.md section 2). -/

namespace Sys2Proof

/-- R8: `A_CMD_I`. -/
def addrCmdI : Byte := 0x03

/-- R8: `A_CMD_R`. -/
def addrCmdR : Byte := 0x01

/-- R63: the decoder accepts the addresses `0x03` and `0x01` and no other. -/
def isAddress (b : Byte) : Bool := b == addrCmdI || b == addrCmdR

/-- R64: the frame kinds, D0's ControlField; `rr`, `rej` and `info` carry their sequence number. -/
inductive ControlField where
  | set
  | ua
  | disc
  | rr (n : Bit)
  | rej (n : Bit)
  | info (s : Bit)
deriving DecidableEq, Repr

/-- R65: `CtrlI(s) = s * 0x40`. -/
def ctrlI (s : Bit) : Byte := s.setWidth 8 * 0x40

/-- R65: `CtrlRR(n) = 0x05 + n * 0x80`. -/
def ctrlRR (n : Bit) : Byte := 0x05 + n.setWidth 8 * 0x80

/-- R65: `CtrlREJ(n) = 0x01 + n * 0x80`. -/
def ctrlREJ (n : Bit) : Byte := 0x01 + n.setWidth 8 * 0x80

/-- R64: the control byte of a frame kind. -/
def ControlField.byte : ControlField → Byte
  | .set => 0x03
  | .ua => 0x07
  | .disc => 0x0B
  | .rr n => ctrlRR n
  | .rej n => ctrlREJ n
  | .info s => ctrlI s

/-- R66: `Classify(c)`; `none` is `Unrecognised`. The whole byte is matched. -/
def classify (c : Byte) : Option ControlField :=
  if c = 0x03 then some .set
  else if c = 0x07 then some .ua
  else if c = 0x0B then some .disc
  else if c = 0x05 then some (.rr 0)
  else if c = 0x85 then some (.rr 1)
  else if c = 0x01 then some (.rej 0)
  else if c = 0x81 then some (.rej 1)
  else if c = 0x00 then some (.info 0)
  else if c = 0x40 then some (.info 1)
  else none

/-- R64: supervisory or information, the format column. -/
def ControlField.isInfo : ControlField → Bool
  | .info _ => true
  | _ => false

/-- R66: `IsInf(c)`. -/
def isInf (c : Byte) : Bool :=
  match classify c with
  | some k => k.isInfo
  | none => false

/-- R66: `IsSup(c)`. -/
def isSup (c : Byte) : Bool :=
  match classify c with
  | some k => !k.isInfo
  | none => false

/-- R62: commands are SET, DISC and Information frames; responses are UA, RR and REJ. -/
def ControlField.isCommand : ControlField → Bool
  | .set | .disc | .info _ => true
  | .ua | .rr _ | .rej _ => false

/-- R62: `Addr(role, kind)`: `0x03` for a command of the Initiator or a response of the Responder, `0x01` for a
command of the Responder or a response of the Initiator. -/
def addrOf (role : Role) (k : ControlField) : Byte :=
  match role, k.isCommand with
  | .initiator, true => addrCmdI
  | .responder, false => addrCmdI
  | .responder, true => addrCmdR
  | .initiator, false => addrCmdR

/-- The instruction a received frame of kind `k` is. -/
def Instr.ofFrame (a : Byte) (p : List Byte) (bcc2 : Byte) : ControlField → Instr
  | .set => .set a
  | .ua => .ua a
  | .disc => .disc a
  | .rr n => if n = 0 then .rr0 a else .rr1 a
  | .rej n => if n = 0 then .rej0 a else .rej1 a
  | .info s => if s = 0 then .i0 a p bcc2 else .i1 a p bcc2

/-- The instruction of a received frame, from its control byte; none for a control value outside R64, to which
R71 lets no meaning be given. -/
def instrOfFrame (a c : Byte) (p : List Byte) (bcc2 : Byte) : Option Instr :=
  (classify c).map (Instr.ofFrame a p bcc2)

/-- The data byte a symbol of the protected region stands for (R76, R108); other instructions are no symbols. -/
def symbolValue : Instr → Byte
  | .escFlag => flag
  | .escEsc => esc
  | .literal v => v
  | _ => 0

/-- R108: the symbol an escape byte followed by `x` is. `7D 5E` and `7D 5D` are the two pairs of R76; any other
`x` but the marker stands for `x XOR 0x20` (U3), a second spelling of that literal. -/
def symbolAfterEscape (x : Byte) : Instr :=
  if x = flag ^^^ escMask then .escFlag
  else if x = esc ^^^ escMask then .escEsc
  else .literal (x ^^^ escMask)

end Sys2Proof
end

