-- ==== Sys2Proof/Machine/Stuffing.lean ====
section
/-! DEFINITION. The Byte Stuffer/Destuffer and the Checksum Unit: pure functions on byte sequences
(spec/40_stuffing_checksum.md). -/

namespace Sys2Proof

/-- R76: `Stuff(s)`. -/
def stuff : List Byte → List Byte
  | [] => []
  | b :: t => if b = flag ∨ b = esc then esc :: (b ^^^ escMask) :: stuff t else b :: stuff t

/-- R78: `Destuff(t)`; `none` is `FramingError` (an escape byte with nothing after it). -/
def destuff : List Byte → Option (List Byte)
  | [] => some []
  | [b] => if b = esc then none else some [b]
  | b :: x :: u =>
    if b = esc then (destuff u).map ((x ^^^ escMask) :: ·) else (destuff (x :: u)).map (b :: ·)

/-- R80: `Bcc1(a, c) = a XOR c`. -/
def bcc1 (a c : Byte) : Byte := a ^^^ c

/-- R80: `HeaderOk(a, c, x)`. -/
def headerOk (a c x : Byte) : Bool := x == bcc1 a c

/-- R81: `XorFold(p)`, the payload checksum BCC2. -/
def xorFold : List Byte → Byte
  | [] => 0x00
  | b :: t => b ^^^ xorFold t

/-- R82: `PayloadOk(r)` for a destuffed protected region `r` that is not empty: the last byte is the received
checksum of the bytes before it. -/
def payloadOk (r : List Byte) : Bool := r.getLast? == some (xorFold r.dropLast)

end Sys2Proof
end

