-- ==== Sys2Proof/Machine/FrameEncoder.lean ====
section
/-! DEFINITION. The Frame Codec, encode side (spec/41_frame_encoder.md): the two frame formats of R61. -/

namespace Sys2Proof

/-- R90: `EncodeS(a, c)`, format S. -/
def encodeS (a c : Byte) : List Byte := [flag, a, c, bcc1 a c, flag]

/-- Format I of R61 with an arbitrary checksum byte in the BCC2 position (what a receiver can be sent). -/
def frameI (a c : Byte) (p : List Byte) (bcc2 : Byte) : List Byte :=
  [flag, a, c, bcc1 a c] ++ stuff (p ++ [bcc2]) ++ [flag]

/-- R91: `EncodeI(a, c, p)`. -/
def encodeI (a c : Byte) (p : List Byte) : List Byte := frameI a c p (xorFold p)

/-- R92: D0's single `Encode(ControlField, address, payload)`. -/
def encodeField (k : ControlField) (a : Byte) (p : List Byte) : List Byte :=
  if k.isInfo then encodeI a k.byte p else encodeS a k.byte

end Sys2Proof
end

