-- ==== Sys2Proof/WellFormed.lean ====
section
/-! DEFINITION. Which instruction terms are in the domain of the spec. -/

namespace Sys2Proof

/-- The domain of each instruction's operands, for an engine whose `MAX_PAYLOAD` is `maxPayload`: an address is
`0x03` or `0x01` (R61, R62), a payload has at most `MAX_PAYLOAD` bytes (R61), `timeout` is at least 1 (R117, U9),
a literal is neither reserved byte (R69, the LITERAL row). `SEND` takes any byte sequence (R130): one that is too
long is answered, not excluded. -/
def Instr.wf (maxPayload : Nat) : Instr → Bool
  | .set a => isAddress a
  | .ua a => isAddress a
  | .disc a => isAddress a
  | .rr0 a => isAddress a
  | .rr1 a => isAddress a
  | .rej0 a => isAddress a
  | .rej1 a => isAddress a
  | .i0 a p _ => isAddress a && decide (p.length ≤ maxPayload)
  | .i1 a p _ => isAddress a && decide (p.length ≤ maxPayload)
  | .openOp _ _ timeout => decide (1 ≤ timeout)
  | .send _ => true
  | .receive => true
  | .close => true
  | .escFlag => true
  | .escEsc => true
  | .literal v => v != flag && v != esc

end Sys2Proof
end

