-- ==== Sys2Proof/Decode.lean ====
section
/-! DEFINITION. Encodings and decoding, channel by channel: a frame is a byte sequence of the line (R60, R61), a
symbol one or two bytes of a protected region (R69), a host operation a message of the `Cmd` channel with its
2-bit code (R73). Decoding is total and rejects by name; the encoder is beside it. -/

namespace Sys2Proof

/-- R73, R156: one message of the `Cmd` channel: the code `cmd[1:0]` and the operands, by value (D2). An
operation reads only its own operands. -/
structure CmdMsg where
  code : BitVec 2
  role : Bit
  maxAttempts : Nat
  timeout : Nat
  payload : List Byte
deriving DecidableEq, Repr

/-- An encoded instruction, by the channel it travels on. -/
inductive Encoded where
  | frame (bytes : List Byte)
  | command (m : CmdMsg)
  | symbol (bytes : List Byte)
deriving DecidableEq, Repr

/-- Why bits are no instruction; the names follow the table of R71. -/
inductive DecodeError where
  /-- No marker where a frame must begin (R102). -/
  | noMarker
  /-- An address other than `0x03`, `0x01` (R103, U1). -/
  | unknownAddress
  /-- A control value outside the nine of R64 (R104, U2). -/
  | unknownControl
  /-- BCC1 is not `A XOR C` (R105). -/
  | headerChecksum
  /-- A supervisory header not followed by the marker (R106). -/
  | notClosed
  /-- `FramingError`: trailing escape, oversized or empty protected region (R108 to R110). -/
  | framingError
  /-- The bytes end before the instruction does. -/
  | truncated
  /-- A marker where a symbol of the protected region must stand (R107). -/
  | notASymbol
  /-- Bytes left over after the instruction. -/
  | trailing
  /-- `OPEN` with `timeout = 0` (R117, U9). -/
  | timeoutZero
deriving DecidableEq, Repr

/-- R70: the bytes before the first marker and the bytes after it. -/
def splitMarker : List Byte → Option (List Byte × List Byte)
  | [] => none
  | b :: t => if b = flag then some ([], t) else (splitMarker t).map (fun r => (b :: r.1, r.2))

/-- R109, R110 on a whole protected region `t` (the bytes between BCC1 and the closing marker): payload and
received checksum. -/
def decodeRegion (maxPayload : Nat) (t : List Byte) : Except DecodeError (List Byte × Byte) :=
  match destuff t with
  | none => .error .framingError
  | some r =>
    match r.getLast? with
    | none => .error .framingError
    | some x => if r.length ≤ maxPayload + 1 then .ok (r.dropLast, x) else .error .framingError

/-- R61, R70: the rest of a frame after its header, the header checksum being right. -/
def decodeBody (maxPayload : Nat) (a : Byte) (k : ControlField) (rest : List Byte) :
    Except DecodeError (Instr × List Byte) :=
  if k.isInfo then
    match splitMarker rest with
    | none => .error .truncated
    | some (t, after) =>
      match decodeRegion maxPayload t with
      | .error e => .error e
      | .ok (p, x) => .ok (Instr.ofFrame a p x k, after)
  else
    match rest with
    | [] => .error .truncated
    | b :: after => if b = flag then .ok (Instr.ofFrame a [] 0 k, after) else .error .notClosed

/-- R60, R61, R70: one whole frame at the front of a byte sequence, and the bytes after it. -/
def decodeFrame (maxPayload : Nat) : List Byte → Except DecodeError (Instr × List Byte)
  | m :: a :: c :: x :: rest =>
    if m ≠ flag then .error .noMarker
    else if isAddress a = false then .error .unknownAddress
    else
      match classify c with
      | none => .error .unknownControl
      | some k => if headerOk a c x then decodeBody maxPayload a k rest else .error .headerChecksum
  | _ => .error .truncated

/-- R76, R78, R108: one symbol at the front of a protected region, and the bytes after it. -/
def decodeSymbol : List Byte → Except DecodeError (Instr × List Byte)
  | [] => .error .truncated
  | b :: t =>
    if b = flag then .error .notASymbol
    else if b = esc then
      match t with
      | [] => .error .truncated
      | x :: u => if x = flag then .error .framingError else .ok (symbolAfterEscape x, u)
    else .ok (.literal b, t)

/-- R73: `role` 0 is Initiator, 1 Responder. -/
def roleOfBit (b : Bit) : Role := if b = 0 then .initiator else .responder

/-- R73: the operand bit of a role. -/
def bitOfRole : Role → Bit
  | .initiator => 0
  | .responder => 1

/-- R73: the host operation of a message. Every code is an operation; `OPEN` with `timeout = 0` is outside its
domain (U9). -/
def decodeCommand (m : CmdMsg) : Except DecodeError Instr :=
  if m.code = 0b00 then
    if m.timeout = 0 then .error .timeoutZero else .ok (.openOp (roleOfBit m.role) m.maxAttempts m.timeout)
  else if m.code = 0b01 then .ok (.send m.payload)
  else if m.code = 0b10 then .ok .receive
  else .ok .close

/-- An instruction that is the whole of what was given. -/
def whole (r : Except DecodeError (Instr × List Byte)) : Except DecodeError Instr :=
  match r with
  | .ok (i, []) => .ok i
  | .ok (_, _ :: _) => .error .trailing
  | .error e => .error e

/-- The instruction that an encoding is. -/
def decode (maxPayload : Nat) : Encoded → Except DecodeError Instr
  | .frame bs => whole (decodeFrame maxPayload bs)
  | .command m => decodeCommand m
  | .symbol bs => whole (decodeSymbol bs)

/-! The encoder. -/

/-- R73: a message without operands. -/
def CmdMsg.bare (code : BitVec 2) : CmdMsg := ⟨code, 0, 0, 0, []⟩

/-- The encoding of an instruction: R90 for the supervisory frames, format I of R61 for the Information frames,
R73 for the host operations, R76 for the symbols. -/
def encode : Instr → Encoded
  | .set a => .frame (encodeS a 0x03)
  | .ua a => .frame (encodeS a 0x07)
  | .disc a => .frame (encodeS a 0x0B)
  | .rr0 a => .frame (encodeS a 0x05)
  | .rr1 a => .frame (encodeS a 0x85)
  | .rej0 a => .frame (encodeS a 0x01)
  | .rej1 a => .frame (encodeS a 0x81)
  | .i0 a p x => .frame (frameI a 0x00 p x)
  | .i1 a p x => .frame (frameI a 0x40 p x)
  | .openOp role n t => .command { CmdMsg.bare 0b00 with role := bitOfRole role, maxAttempts := n, timeout := t }
  | .send p => .command { CmdMsg.bare 0b01 with payload := p }
  | .receive => .command (CmdMsg.bare 0b10)
  | .close => .command (CmdMsg.bare 0b11)
  | .escFlag => .symbol [0x7D, 0x5E]
  | .escEsc => .symbol [0x7D, 0x5D]
  | .literal v => .symbol [v]

/-! The table's words. -/

/-- The encoding of an opcode-table word, as this hardware lays it out (assumption log 4).
A row of 2 bits is a host operation's code; its operands are the least of their domains.
A row of 8 bits is a control byte in a frame with address `0x03` and, for an Information frame, an empty payload;
a byte that is no control value but a command code (only `0x02`) is that command, any other a symbol.
A row of 16 bits is a symbol's two bytes, the more significant first on the line. -/
def tableWord (nbits w : Nat) : Encoded :=
  let b := BitVec.ofNat 8 w
  let command (code : BitVec 2) : Encoded := .command { CmdMsg.bare code with timeout := 1 }
  if nbits < 8 then command (BitVec.ofNat 2 w)
  else if nbits = 8 then
    match classify b with
    | some (.info _) => .frame (frameI addrCmdI b [] 0)
    | some _ => .frame (encodeS addrCmdI b)
    | none => if w = 2 then command 0b10 else .symbol [b]
  else .symbol [BitVec.ofNat 8 (w / 256), b]

/-- The instruction the decoder reads from an opcode-table word. -/
def decodeTableWord (nbits w : Nat) : Option Instr :=
  match decode 0 (tableWord nbits w) with
  | .ok i => some i
  | .error _ => none

end Sys2Proof
end

