-- ==== Sys2Proof/Machine/State.lean ====
section
/-! DEFINITION. The state of one engine: the record `S` of spec/10_state.md, and beside it the engine's parameter,
the inputs the environment is holding and the histories of the two output streams (R29). -/

namespace Sys2Proof.Machine

/-- R12: the connection phase. -/
inductive Phase where
  | closed
  | establishing
  | opened
  | closing
deriving DecidableEq, Repr

/-- R13: the operation state. -/
inductive Eng where
  | idle
  | openIWaitUa
  | openRWaitSet
  | sendWaitAck
  | recvWait
  | closeIWaitDisc
  | closeRWaitDisc
  | closeRWaitUa
deriving DecidableEq, Repr

/-- R24: the state of the byte-at-a-time decoder. -/
inductive DecSt where
  | idle
  | flagSeen
  | addressSeen
  | controlSeen
  | awaitEndS
  | inPayload
deriving DecidableEq, Repr

/-- R23: the decoder's registers, `S.dec`. -/
structure Decoder where
  /-- R24. -/
  st : DecSt
  /-- R25: the address byte of the frame in progress. -/
  addr : Byte
  /-- R25: the control byte of the frame in progress. -/
  ctrl : Byte
  /-- R26: the next byte is escaped. -/
  esc : Bool
  /-- R27: the destuffed bytes of the protected region so far. -/
  buf : List Byte
deriving DecidableEq, Repr

/-- R157: the result values of host operations. -/
inductive Result where
  | ok
  | okSent (n : Nat)
  | data (p : List Byte)
  | peerClosed
  | transmitFailed
  | connectionFailed
  | closeFailed
  | aborted
  | invalidState
  | payloadTooLarge
deriving DecidableEq, Repr

/-- R6: the outputs of a step. -/
inductive Output where
  /-- `TX(bytes)`: a whole frame on the transmit stream (R41). -/
  | tx (bytes : List Byte)
  /-- `RSP(result)`: the end of a host operation (R156). -/
  | rsp (r : Result)
deriving DecidableEq, Repr

/-- R6: the input events. -/
inductive Event where
  | reset
  | cmd (m : CmdMsg)
  | rxByte (b : Byte)
  | tick
deriving DecidableEq, Repr

/-- Why a step has no next state although its instruction has a meaning. -/
inductive Fault where
  /-- Raised by `fail` (R147) when the budget is found spent in an `S.eng` that R147 has no row for. R147's table is
  the whole of the spec's text on it, and R14 says no run gets there. Safe: the model stops where nothing is said. -/
  | failOutsideTimedWait
deriving DecidableEq, Repr

/-- Why an instruction is refused. -/
inductive Refusal where
  /-- Raised by `exec` for an instruction that has no meaning yet. Safe: nothing is claimed of it. -/
  | notModelled (mnemonic : String)
  /-- Raised by `OPEN` with `timeout = 0`, which is outside the domain of `OPEN` ("refuse": R117, U9). Safe. -/
  | timeoutZero
  /-- Raised by `OPEN` with operands that do not fit the widths `ATT_W` and `TMO_W` ("refuse": R8, U14). Safe. -/
  | budgetTooWide
  /-- Raised by a host operation run where its command is not enabled ("refuse": R7, U10). `step` never runs one
  there: the command stays with the host. Safe. -/
  | commandNotEnabled
  /-- Raised by a frame or a symbol run while no operation waits for bytes ("refuse": R7, R40, U11). `step` never
  runs one there: the byte stays in the transport. Safe. -/
  | byteNotEnabled
deriving DecidableEq, Repr

/-- The engine and its surroundings. The fields from `phase` to `dec` are the record `S`. -/
structure State where
  /-- R12: `S.phase`. -/
  phase : Phase
  /-- R13: `S.eng`. -/
  eng : Eng
  /-- R15: `S.role`. -/
  role : Role
  /-- R16, R8: `S.max_attempts`, `ATT_W` bits. -/
  maxAttempts : Nat
  /-- R16, R8: `S.timeout`, in ticks, `TMO_W` bits. -/
  timeout : Nat
  /-- R17: `S.tx_seq`. -/
  txSeq : Bit
  /-- R18: `S.rx_seq`. -/
  rxSeq : Bit
  /-- R20, R8: `S.attempts`, `ATT_W` bits. -/
  attempts : Nat
  /-- R21: `S.timer_armed`. -/
  timerArmed : Bool
  /-- R21, R8: `S.timer_cnt`, ticks left, `TMO_W` bits. -/
  timerCnt : Nat
  /-- R22: `S.hold`, the frame of the current retry-controlled operation. -/
  hold : List Byte
  /-- R23: `S.dec`. -/
  dec : Decoder
  /-- R8, R29 (a): the parameters `MAX_PAYLOAD`, `ATT_W` and `TMO_W`; no step changes them. -/
  cfg : Config
  /-- R7, R40: the inputs the environment is presenting or holding, in the order it presents them. -/
  pending : List Event
  /-- R29 (b), R41, R51: the one history of the transmit and the result stream, oldest first; no rule reads it. -/
  out : List Output
deriving DecidableEq, Repr

/-- R31, R24 to R27: the decoder after reset. `addr` and `ctrl` are unspecified there and are zero here
(assumption log 2). -/
def Decoder.reset : Decoder :=
  { st := .idle, addr := 0, ctrl := 0, esc := false, buf := [] }

/-- R31, R175: the state after `Reset`, with nothing presented and nothing emitted. `role`, `maxAttempts`, `timeout`
and `timerCnt` are unspecified there; their values here are the model's (assumption log 2). -/
def State.reset : State :=
  { phase := .closed
    eng := .idle
    role := .initiator
    maxAttempts := 0
    timeout := 0
    txSeq := 0
    rxSeq := 0
    attempts := 0
    timerArmed := false
    timerCnt := 0
    hold := []
    dec := Decoder.reset
    cfg := Config.unfixed
    pending := []
    out := [] }


end Sys2Proof.Machine
end

