-- ==== Sys2Proof/Machine/Ops.lean ====
section
/-! DEFINITION. The shared operations: buffer accesses, the two outputs, the completion of an operation (what this
engine has in the place of taking an exception: R155, R162), the events and when they are enabled. -/

namespace Sys2Proof.Machine

open Host (Outcome)

/-! Buffers (R42; spec/00_scope.md section 5.2). -/

/-- `MemRead(buf, i, 1)`. DESIGN CHOICE, safe: past the end of the buffer it is 0; the spec is silent there and no
meaning reads there (assumption log 12). -/
def memRead (buf : List Byte) (i : Nat) : Byte := buf.getD i 0

/-- `MemWrite(buf, i, 1, v)`: at the index equal to the length the write appends. DESIGN CHOICE, safe: past that index it
leaves the buffer as it is; the spec is silent there and every write of the model appends (assumption log 12). -/
def memWrite (buf : List Byte) (i : Nat) (v : Byte) : List Byte :=
  if i = buf.length then buf ++ [v] else buf.set i v

/-- R43: the capacity of `S.hold`. -/
def holdCapacity (cfg : Config) : Nat := 2 * cfg.maxPayload + 7

/-- R44: the capacity of `S.dec.buf`. -/
def bufCapacity (cfg : Config) : Nat := cfg.maxPayload + 1

/-- The form of the two buffers, the only memories of the engine (R22, R27, R42 to R44): each is within its
capacity. The engine has no addressed memory. -/
def Memory.wf (s : State) : Bool :=
  decide (s.hold.length ≤ holdCapacity s.cfg) && decide (s.dec.buf.length ≤ bufCapacity s.cfg)

/-! Registers. -/

/-- R8, U14: the retry budget of an `OPEN` fits the registers it is written to. -/
def budgetFits (cfg : Config) (maxAttempts timeout : Nat) : Bool :=
  decide (maxAttempts < 2 ^ cfg.attW) && decide (timeout < 2 ^ cfg.tmoW)

/-! Outputs and completion. -/

/-- `emit TX(bytes)` (R41). -/
def emitTx (bytes : List Byte) (s : State) : State := { s with out := s.out ++ [.tx bytes] }

/-- Output `RSP(r)` (R156). -/
def respond (r : Result) (s : State) : State := { s with out := s.out ++ [.rsp r] }

/-- `complete(r)`: output `RSP(r)` and set `S.eng` to `Idle` (R162). Nothing is saved and nothing is returned to
(R163). -/
def complete (r : Result) (s : State) : State := { respond r s with eng := .idle }

/-- `disarm` (R149): the counter keeps its value. -/
def disarm (s : State) : State := { s with timerArmed := false }

/-! Events (R6, R7). -/

/-- R7, R128: the two waits that `CLOSE` can abort. -/
def Eng.abortable (e : Eng) : Bool := e == .sendWaitAck || e == .recvWait

/-- R7: which events the engine takes while `S.eng = e`. -/
def enabled (e : Eng) : Event → Bool
  | .reset => true
  | .tick => true
  | .rxByte _ => e != .idle
  | .cmd m => e == .idle || (m.code == 0b11 && e.abortable)

/-- Whether an event is a message of the `Cmd` channel. -/
def Event.isCmd : Event → Bool
  | .cmd _ => true
  | _ => false

/-- R7, R52: the first enabled event among those presented, and the others, which the environment goes on holding
in their order. A command is not taken before one that the host presented earlier and still holds
(assumption log 3); `cmdHeld` says whether there is one. -/
def takeEvent (e : Eng) (cmdHeld : Bool) : List Event → Option (Event × List Event)
  | [] => none
  | ev :: rest =>
    if enabled e ev && !(cmdHeld && ev.isCmd) then some (ev, rest)
    else (takeEvent e (cmdHeld || ev.isCmd) rest).map (fun r => (r.1, ev :: r.2))

/-- R165: the order in which an implementation with a clock takes inputs present in one cycle: `Reset`, and then
none of the others, else the byte, then the tick, then the command. -/
def arbitrate (reset : Bool) (rx : Option Byte) (tick : Bool) (cmd : Option CmdMsg) : List Event :=
  if reset then [.reset]
  else (rx.map Event.rxByte).toList ++ (if tick then [.tick] else []) ++ (cmd.map Event.cmd).toList

/-- R31, R175: the `Reset` step: every field of `S` at its reset value, no output; what the environment holds and
what was already emitted stay. -/
def resetStep (s : State) : State :=
  { State.reset with cfg := s.cfg, pending := s.pending, out := s.out }

end Sys2Proof.Machine
end

