-- ==== Sys2Proof/Machine/Sequencer.lean ====
section
/-! DEFINITION. The timeout and retry sequencer (spec/45_retry_sequencer.md). -/

namespace Sys2Proof.Machine

open Host (Outcome)

/-- R147: `Fail`, the budget is spent, by `S.eng`. -/
def fail (s : State) : Outcome State Fault Refusal :=
  match s.eng with
  | .openIWaitUa => .next (complete .connectionFailed { s with phase := .closed })
  | .sendWaitAck => .next (complete .transmitFailed s)
  | .closeIWaitDisc => .next (complete .closeFailed { s with phase := .closed })
  | .idle | .openRWaitSet | .recvWait | .closeRWaitDisc | .closeRWaitUa => .fault .failOutsideTimedWait

/-- R146: one transmission of the held frame: it is emitted, counted, and the deadline is loaded. -/
def transmit (s : State) : State :=
  { emitTx s.hold s with attempts := s.attempts + 1, timerCnt := s.timeout, timerArmed := true }

/-- R146: `try_transmit`. -/
def tryTransmit (s : State) : Outcome State Fault Refusal :=
  if s.attempts ≥ s.maxAttempts then fail s else .next (transmit s)

/-- R148, R151: the expiry of the deadline. -/
def expire (s : State) : Outcome State Fault Refusal := tryTransmit { s with timerArmed := false }

/-- R148: the `Tick` step. -/
def tickStep (s : State) : Outcome State Fault Refusal :=
  if s.timerArmed = false then .next s
  else if s.timerCnt ≥ 2 then .next { s with timerCnt := s.timerCnt - 1 }
  else expire s

end Sys2Proof.Machine
end

