-- ==== Sys2Proof/Machine/Arq.lean ====
section
/-! DEFINITION. The ARQ Engine (spec/44_arq.md): the operations SEND and RECEIVE, and the frames RR, REJ and I. -/

namespace Sys2Proof.Machine

open Host (Outcome)

/-! SEND. -/

/-- R130, R136: `SEND(p)`. -/
def execSend (p : List Byte) (s : State) : Outcome State Fault Refusal :=
  if s.eng ≠ .idle then .refused .commandNotEnabled
  else if s.phase ≠ .opened then .next (respond .invalidState s)
  else if p.length > s.cfg.maxPayload then .next (respond .payloadTooLarge s)
  else
    tryTransmit
      { s with
        hold := encodeI (addrOf s.role (.info s.txSeq)) (ctrlI s.txSeq) p
        attempts := 0
        eng := .sendWaitAck }

/-- R132: the positive acknowledgment of the frame in flight. -/
def acknowledged (s : State) : State :=
  complete (.okSent s.hold.length) { disarm s with txSeq := ~~~s.txSeq }

/-- R131, R132, R134: an RR naming `n` is received: the acknowledgment if `n` is the number after the one in flight,
stale otherwise; ignored outside `Send_WaitAck` (R129, R142). -/
def receiveRr (n : Bit) (s : State) : Outcome State Fault Refusal :=
  match s.eng with
  | .idle => .refused .byteNotEnabled
  | .sendWaitAck => if n = ~~~s.txSeq then .next (acknowledged s) else .next s
  | .openIWaitUa | .openRWaitSet | .recvWait | .closeIWaitDisc | .closeRWaitDisc | .closeRWaitUa => .next s

/-- R96 with n = 0. -/
def execRr0 (_a : Byte) (s : State) : Outcome State Fault Refusal := receiveRr 0 s

/-- R96 with n = 1. -/
def execRr1 (_a : Byte) (s : State) : Outcome State Fault Refusal := receiveRr 1 s

/-- R131, R133, R134: a REJ naming `n` is received: an immediate retransmission if `n` is the number in flight;
ignored otherwise, and outside `Send_WaitAck` (R129, R142). -/
def receiveRej (n : Bit) (s : State) : Outcome State Fault Refusal :=
  match s.eng with
  | .idle => .refused .byteNotEnabled
  | .sendWaitAck => if n = s.txSeq then tryTransmit (disarm s) else .next s
  | .openIWaitUa | .openRWaitSet | .recvWait | .closeIWaitDisc | .closeRWaitDisc | .closeRWaitUa => .next s

/-- R97 with n = 0. -/
def execRej0 (_a : Byte) (s : State) : Outcome State Fault Refusal := receiveRej 0 s

/-- R97 with n = 1. -/
def execRej1 (_a : Byte) (s : State) : Outcome State Fault Refusal := receiveRej 1 s

/-! RECEIVE. -/

/-- R137: `RECEIVE`. -/
def execReceive (s : State) : Outcome State Fault Refusal :=
  if s.eng ≠ .idle then .refused .commandNotEnabled
  else if s.phase ≠ .opened then .next (respond .invalidState s)
  else .next { s with eng := .recvWait }

/-- R138, R139: the frame RR naming the receive-expected number. -/
def rrFrame (s : State) : List Byte := encodeS (addrOf s.role (.rr s.rxSeq)) (ctrlRR s.rxSeq)

/-- R140: the frame REJ naming the receive-expected number. -/
def rejFrame (s : State) : List Byte := encodeS (addrOf s.role (.rej s.rxSeq)) (ctrlREJ s.rxSeq)

/-- R138: a new Information frame: the expected number flips, RR names the new value, the payload is given. -/
def acceptInfo (p : List Byte) (s : State) : State :=
  let s1 := { s with rxSeq := ~~~s.rxSeq }
  complete (.data p) (emitTx (rrFrame s1) s1)

/-- R138, R139, R140: an Information frame is received in `Recv_Wait`; validity is tested before the number
(R164 (e)). -/
def receiveInfoWaiting (n : Bit) (p : List Byte) (valid : Bool) (s : State) : State :=
  if valid = false then emitTx (rejFrame s) s
  else if n = s.rxSeq then acceptInfo p s
  else emitTx (rrFrame s) s

/-- An Information frame numbered `n` is received: R138 to R140 in `Recv_Wait`, ignored elsewhere (R129, R134). -/
def receiveInfo (n : Bit) (p : List Byte) (bcc2 : Byte) (s : State) : Outcome State Fault Refusal :=
  match s.eng with
  | .idle => .refused .byteNotEnabled
  | .recvWait => .next (receiveInfoWaiting n p (xorFold p == bcc2) s)
  | .openIWaitUa | .openRWaitSet | .sendWaitAck | .closeIWaitDisc | .closeRWaitDisc | .closeRWaitUa => .next s

/-- R98 with s = 0. -/
def execI0 (_a : Byte) (p : List Byte) (bcc2 : Byte) (s : State) : Outcome State Fault Refusal := receiveInfo 0 p bcc2 s

/-- R98 with s = 1. -/
def execI1 (_a : Byte) (p : List Byte) (bcc2 : Byte) (s : State) : Outcome State Fault Refusal := receiveInfo 1 p bcc2 s

end Sys2Proof.Machine
end

