-- ==== Sys2Proof/Machine/Connection.lean ====
section
/-! DEFINITION. The Connection State Machine (spec/43_connection.md): the operations OPEN and CLOSE for both roles,
and the frames SET, UA and DISC. -/

namespace Sys2Proof.Machine

open Host (Outcome)

/-! OPEN. -/

/-- R117: what an accepted `OPEN` writes before the role decides. -/
def openSession (role : Role) (maxAttempts timeout : Nat) (s : State) : State :=
  { s with
    role := role
    maxAttempts := maxAttempts
    timeout := timeout
    txSeq := 0
    rxSeq := 0
    dec := { s.dec with st := .idle, esc := false, buf := [] }
    attempts := 0
    timerArmed := false
    phase := .establishing }

/-- R118: the Initiator's start of `OPEN`, SET under the retry budget. -/
def startOpenI (s : State) : Outcome State Fault Refusal :=
  tryTransmit { s with hold := encodeS 0x03 0x03, eng := .openIWaitUa }

/-- R120: the Responder's start of `OPEN`, an untimed wait. -/
def startOpenR (s : State) : Outcome State Fault Refusal := .next { s with eng := .openRWaitSet }

/-- R117: `OPEN(role, max_attempts, timeout)`; operands outside its domain (U9) or too wide for the registers (U14) are
refused. -/
def execOpenOp (role : Role) (maxAttempts timeout : Nat) (s : State) : Outcome State Fault Refusal :=
  if timeout = 0 then .refused .timeoutZero
  else if budgetFits s.cfg maxAttempts timeout = false then .refused .budgetTooWide
  else if s.eng ≠ .idle then .refused .commandNotEnabled
  else if s.phase ≠ .closed then .next (respond .invalidState s)
  else
    match role with
    | .initiator => startOpenI (openSession role maxAttempts timeout s)
    | .responder => startOpenR (openSession role maxAttempts timeout s)

/-! CLOSE. -/

/-- R123: the Initiator's start of `CLOSE`, DISC under the retry budget. -/
def startCloseI (s : State) : Outcome State Fault Refusal :=
  tryTransmit { s with hold := encodeS 0x03 0x0B, attempts := 0, eng := .closeIWaitDisc }

/-- R125: the Responder's start of `CLOSE`, an untimed wait. -/
def startCloseR (s : State) : Outcome State Fault Refusal := .next { s with eng := .closeRWaitDisc }

/-- R122, R128: the close begins, by role. -/
def startClose (s : State) : Outcome State Fault Refusal :=
  match s.role with
  | .initiator => startCloseI { s with phase := .closing }
  | .responder => startCloseR { s with phase := .closing }

/-- R122 from `Idle`; R128 as an abort of `SEND` or `RECEIVE`. -/
def execClose (s : State) : Outcome State Fault Refusal :=
  if s.eng = .idle then
    if s.phase ≠ .opened then .next (respond .invalidState s) else startClose s
  else if s.eng.abortable then startClose (respond .aborted (disarm s))
  else .refused .commandNotEnabled

/-! Frames. -/

/-- R93: a SET is received. In `OpenR_WaitSet` it is answered by UA and opens the session (R121); every other wait
ignores it (R129, R134, R142). -/
def execSet (_a : Byte) (s : State) : Outcome State Fault Refusal :=
  match s.eng with
  | .idle => .refused .byteNotEnabled
  | .openRWaitSet => .next (complete .ok { emitTx (encodeS 0x03 0x07) s with phase := .opened })
  | .openIWaitUa | .sendWaitAck | .recvWait | .closeIWaitDisc | .closeRWaitDisc | .closeRWaitUa => .next s

/-- R94: a UA is received. It completes the Initiator's `OPEN` (R119) and the Responder's `CLOSE` (R127); every
other wait ignores it (R129, R134, R142). -/
def execUa (_a : Byte) (s : State) : Outcome State Fault Refusal :=
  match s.eng with
  | .idle => .refused .byteNotEnabled
  | .openIWaitUa => .next (complete .ok { disarm s with phase := .opened })
  | .closeRWaitUa => .next (complete .ok { s with phase := .closed })
  | .openRWaitSet | .sendWaitAck | .recvWait | .closeIWaitDisc | .closeRWaitDisc => .next s

/-- R95: a DISC is received. It ends a `RECEIVE` (R141), completes the Initiator's `CLOSE` (R124) and makes the
closing Responder send its own DISC (R126); every other wait ignores it (R129, R134). -/
def execDisc (_a : Byte) (s : State) : Outcome State Fault Refusal :=
  match s.eng with
  | .idle => .refused .byteNotEnabled
  | .recvWait => .next (complete .peerClosed s)
  | .closeIWaitDisc => .next (complete .ok { emitTx (encodeS 0x01 0x07) (disarm s) with phase := .closed })
  | .closeRWaitDisc => .next { emitTx (encodeS 0x01 0x0B) s with eng := .closeRWaitUa }
  | .openIWaitUa | .openRWaitSet | .sendWaitAck | .closeRWaitUa => .next s

end Sys2Proof.Machine
end

