-- ==== Sys2Proof/Machine/Decoder.lean ====
section
/-! DEFINITION. The Frame Codec, decode side: the byte-at-a-time receive state machine (spec/42_frame_decoder.md). -/

namespace Sys2Proof.Machine

/-- R100: the result of `DecodeByte`. -/
inductive DecResult where
  | needMore
  | frame (a c : Byte) (p : List Byte) (valid : Bool)
  | framingError
deriving DecidableEq, Repr

/-- What one byte does to the decoder before a completed symbol or frame is acted on. -/
inductive Scan where
  /-- The byte is consumed and nothing is complete. -/
  | needMore (d : Decoder)
  /-- The frame in progress was malformed and is discarded. -/
  | framingError (d : Decoder)
  /-- A symbol of the protected region is complete; it is still to be accumulated. -/
  | symbol (i : Instr) (d : Decoder)
  /-- A frame is complete, with the checksum byte received for its payload. -/
  | frame (a c : Byte) (p : List Byte) (bcc2 : Byte) (d : Decoder)
deriving DecidableEq, Repr

/-- R110: `CloseI`, the closing marker of an Information frame. -/
def closeI (d : Decoder) : Scan :=
  let n := d.buf.length
  if n = 0 then .framingError { d with st := .idle }
  else .frame d.addr d.ctrl (d.buf.take (n - 1)) (memRead d.buf (n - 1)) { d with st := .idle, buf := [] }

/-- R102. -/
def scanIdle (b : Byte) (d : Decoder) : Scan :=
  if b = flag then .needMore { d with st := .flagSeen } else .needMore { d with st := .idle }

/-- R103. -/
def scanFlagSeen (b : Byte) (d : Decoder) : Scan :=
  if b = flag then .needMore { d with st := .flagSeen }
  else if isAddress b then .needMore { d with addr := b, st := .addressSeen }
  else .needMore { d with st := .idle }

/-- R104. -/
def scanAddressSeen (b : Byte) (d : Decoder) : Scan :=
  if b = flag then .needMore { d with st := .flagSeen }
  else if (classify b).isSome then .needMore { d with ctrl := b, st := .controlSeen }
  else .needMore { d with st := .idle }

/-- R105. -/
def scanControlSeen (b : Byte) (d : Decoder) : Scan :=
  if headerOk d.addr d.ctrl b && isInf d.ctrl then .needMore { d with buf := [], esc := false, st := .inPayload }
  else if headerOk d.addr d.ctrl b && isSup d.ctrl then .needMore { d with st := .awaitEndS }
  else .needMore { d with st := .idle }

/-- R106: the frame is complete with the empty payload; its checksum is that of the empty payload (R111). -/
def scanAwaitEndS (b : Byte) (d : Decoder) : Scan :=
  if b = flag then .frame d.addr d.ctrl [] (xorFold []) { d with st := .idle }
  else .needMore { d with st := .idle }

/-- R107 (`S.dec.esc = false`) and R108 (`S.dec.esc = true`). -/
def scanInPayload (b : Byte) (d : Decoder) : Scan :=
  if d.esc then
    if b = flag then .framingError { d with st := .idle, esc := false, buf := [] }
    else .symbol (symbolAfterEscape b) { d with esc := false }
  else if b = flag then closeI d
  else if b = Sys2Proof.esc then .needMore { d with esc := true }
  else .symbol (.literal b) d

/-- R102 to R108, R110: one byte by the decoder's state. -/
def scanByte (b : Byte) (d : Decoder) : Scan :=
  match d.st with
  | .idle => scanIdle b d
  | .flagSeen => scanFlagSeen b d
  | .addressSeen => scanAddressSeen b d
  | .controlSeen => scanControlSeen b d
  | .awaitEndS => scanAwaitEndS b d
  | .inPayload => scanInPayload b d

/-- R109: `Accumulate(v)`. -/
def accumulate (maxPayload : Nat) (v : Byte) (d : Decoder) : Decoder × DecResult :=
  if d.buf.length = maxPayload + 1 then ({ d with st := .idle, esc := false, buf := [] }, .framingError)
  else ({ d with buf := memWrite d.buf d.buf.length v }, .needMore)

/-- R100: `DecodeByte(b)`. -/
def decodeByte (maxPayload : Nat) (b : Byte) (d : Decoder) : Decoder × DecResult :=
  match scanByte b d with
  | .needMore d' => (d', .needMore)
  | .framingError d' => (d', .framingError)
  | .symbol i d' => accumulate maxPayload (symbolValue i) d'
  | .frame a c p bcc2 d' => (d', .frame a c p (xorFold p == bcc2))

/-- The decoder after bytes are fed to it one by one. -/
def feed (maxPayload : Nat) : List Byte → Decoder → Decoder
  | [], d => d
  | b :: bs, d => feed maxPayload bs (decodeByte maxPayload b d).1

/-- The results of feeding bytes to the decoder one by one. -/
def feedResults (maxPayload : Nat) : List Byte → Decoder → List DecResult
  | [], _ => []
  | b :: bs, d => (decodeByte maxPayload b d).2 :: feedResults maxPayload bs (decodeByte maxPayload b d).1

end Sys2Proof.Machine
end

