-- ==== Sys2Proof/Machine/Symbols.lean ====
section
/-! DEFINITION. The symbols of the protected region (format P of the opcode table; R76, R107, R108): the bytes of a
symbol go through the decoder. Inside a protected region that is `Accumulate` of the symbol's value (R109); anywhere
else the same bytes mean whatever the decoder's state makes of them (R72). No byte of a symbol is the marker, so no
frame ends in one. -/

namespace Sys2Proof.Machine

open Host (Outcome)

/-- The bytes of one symbol are taken from the line, which is enabled while an operation waits (R7). -/
def takeSymbol (bytes : List Byte) (s : State) : Outcome State Fault Refusal :=
  if s.eng = .idle then .refused .byteNotEnabled
  else .next { s with dec := feed s.cfg.maxPayload bytes s.dec }

/-- `7D 5E`: the data byte `7E` (R76, R108). -/
def execEscFlag (s : State) : Outcome State Fault Refusal := takeSymbol [0x7D, 0x5E] s

/-- `7D 5D`: the data byte `7D` (R76, R108). -/
def execEscEsc (s : State) : Outcome State Fault Refusal := takeSymbol [0x7D, 0x5D] s

/-- A byte that stands for itself (R76, R107). -/
def execLiteral (v : Byte) (s : State) : Outcome State Fault Refusal := takeSymbol [v] s

end Sys2Proof.Machine
end

