-- ==== Sys2Proof/Machine/Dispatch.lean ====
section
/-! DEFINITION. The meaning of every instruction, one arm each. -/

namespace Sys2Proof.Machine

/-- The effect of one instruction: a completed frame is handled (R101), a host operation is accepted (R117, R122,
R128, R130, R137), a symbol is taken (R107, R108). -/
def exec (i : Instr) (s : State) : Host.Outcome State Fault Refusal :=
  match i with
  | .set a => Sys2Proof.Machine.execSet a s
  | .ua a => Sys2Proof.Machine.execUa a s
  | .disc a => Sys2Proof.Machine.execDisc a s
  | .rr0 a => Sys2Proof.Machine.execRr0 a s
  | .rr1 a => Sys2Proof.Machine.execRr1 a s
  | .rej0 a => Sys2Proof.Machine.execRej0 a s
  | .rej1 a => Sys2Proof.Machine.execRej1 a s
  | .i0 a p bcc2 => Sys2Proof.Machine.execI0 a p bcc2 s
  | .i1 a p bcc2 => Sys2Proof.Machine.execI1 a p bcc2 s
  | .openOp role maxAttempts timeout => Sys2Proof.Machine.execOpenOp role maxAttempts timeout s
  | .send p => Sys2Proof.Machine.execSend p s
  | .receive => Sys2Proof.Machine.execReceive s
  | .close => Sys2Proof.Machine.execClose s
  | .escFlag => Sys2Proof.Machine.execEscFlag s
  | .escEsc => Sys2Proof.Machine.execEscEsc s
  | .literal v => Sys2Proof.Machine.execLiteral v s

end Sys2Proof.Machine
end

