-- ==== Sys2Proof/Machine/Fetch.lean ====
section
/-! DEFINITION. Where an instruction is found. The engine has no program counter and no program memory (R11, R42):
an instruction is complete when an event completes it. This file says what the environment presents, and what the
decoder holds, for an instruction to be the next one. -/

namespace Sys2Proof.Machine

/-- An operation waits for bytes: the engine as it is if one does, else a `RECEIVE` in an open session (R7, R14). -/
def awaitingBytes (s : State) : State :=
  if s.eng = .idle then { s with phase := .opened, eng := .recvWait } else s

/-- A frame of control `c` whose closing marker comes next: the decoder holds everything before the marker. -/
def withFrame (a c : Byte) (region : List Byte) (s : State) : State :=
  { awaitingBytes s with
    dec :=
      if isInf c then { st := .inPayload, addr := a, ctrl := c, esc := false, buf := region }
      else { s.dec with st := .awaitEndS, addr := a, ctrl := c }
    pending := .rxByte flag :: s.pending }

/-- A symbol of a protected region of which the last byte `x` comes next, `escaped` if an escape byte came before. -/
def withSymbol (escaped : Bool) (x : Byte) (s : State) : State :=
  { awaitingBytes s with
    dec := { s.dec with st := .inPayload, esc := escaped }
    pending := .rxByte x :: s.pending }

/-- A command that the engine takes next: no operation is outstanding. -/
def withCommand (m : CmdMsg) (s : State) : State :=
  { s with eng := .idle, timerArmed := false, pending := .cmd m :: s.pending }

/-- `s` with the instruction placed where the very next step runs it (assumption log 4). -/
def withInstr (i : Instr) (s : State) : State :=
  match encode i with
  | .command m => withCommand m s
  | .symbol [x] => withSymbol false x s
  | .symbol (_ :: x :: _) => withSymbol true x s
  | .symbol [] => s
  | .frame (_ :: a :: c :: _ :: _) =>
    match i with
    | .i0 _ p bcc2 => withFrame a c (p ++ [bcc2]) s
    | .i1 _ p bcc2 => withFrame a c (p ++ [bcc2]) s
    | _ => withFrame a c [] s
  | .frame _ => s

end Sys2Proof.Machine
end

