-- ==== Sys2Proof/Machine/Step.lean ====
section
/-! DEFINITION. One step: the first enabled event among those presented is handled to completion (R6, R7, R50). -/

namespace Sys2Proof.Machine

open Host (Outcome)

/-- R101: the `RxByte` step. A byte that completes a symbol or a frame runs that instruction; a completed frame whose
control byte is none of R64 changes nothing (R71). -/
def rxStep (b : Byte) (s : State) : Outcome State Fault Refusal :=
  match scanByte b s.dec with
  | .needMore d => .next { s with dec := d }
  | .framingError d => .next { s with dec := d }
  | .symbol i d => exec i { s with dec := d }
  | .frame a c p bcc2 d =>
    match instrOfFrame a c p bcc2 with
    | some i => exec i { s with dec := d }
    | none => .next { s with dec := d }

/-- R73: the `Cmd` step: the message's operation. -/
def cmdStep (m : CmdMsg) (s : State) : Outcome State Fault Refusal :=
  match decodeCommand m with
  | .ok i => exec i s
  | .error _ => .refused .timeoutZero

/-- R6: one event. -/
def handle (e : Event) (s : State) : Outcome State Fault Refusal :=
  match e with
  | .reset => .next (resetStep s)
  | .cmd m => cmdStep m s
  | .rxByte b => rxStep b s
  | .tick => tickStep s

/-- R6, R7: one step. With no enabled event presented the engine waits as it is (R183). -/
def step (s : State) : Outcome State Fault Refusal :=
  match takeEvent s.eng false s.pending with
  | none => .next s
  | some (e, rest) => handle e { s with pending := rest }

/-- `s` with the instruction of an opcode-table word placed where the very next step runs it (assumption log 4). -/
def State.withFetchWord (s : State) (nbits w : Nat) : State :=
  match decodeTableWord nbits w with
  | some i => withInstr i s
  | none => s

end Sys2Proof.Machine
end

