-- ==== Sys2Proof/Machine/Flags.lean ====
section
/-! DEFINITION. The one-bit and coded values the engine shows: status outputs (R160), result and command codes
(R157, R73). The engine has no condition codes and no sticky flags (R28). -/

namespace Sys2Proof.Machine

/-- R160: the status output `phase`. -/
def Phase.code : Phase → BitVec 2
  | .closed => 0b00
  | .establishing => 0b01
  | .opened => 0b10
  | .closing => 0b11

/-- R160: the status output `phase` of a state. -/
def statusPhase (s : State) : BitVec 2 := s.phase.code

/-- R160, R13: the status output `busy`. -/
def busy (s : State) : Bool := s.eng != .idle

/-- R157: the code `rsp[3:0]` of a result; `0xA` to `0xF` are never produced. -/
def Result.code : Result → BitVec 4
  | .ok => 0x0
  | .okSent _ => 0x1
  | .data _ => 0x2
  | .peerClosed => 0x3
  | .transmitFailed => 0x4
  | .connectionFailed => 0x5
  | .closeFailed => 0x6
  | .aborted => 0x7
  | .invalidState => 0x8
  | .payloadTooLarge => 0x9

/-- R41, R46: the bytes of the transmit stream, in the order of transmission. -/
def txStream (outs : List Output) : List Byte :=
  outs.flatMap fun o => match o with
    | .tx bytes => bytes
    | .rsp _ => []

/-- R156: the results given to the host, in order. -/
def results (outs : List Output) : List Result :=
  outs.filterMap fun o => match o with
    | .tx _ => none
    | .rsp r => some r

end Sys2Proof.Machine
end

