-- ==== Sys2Proof/Machine/Reference.lean ====
section
/-! DEFINITION. Two forms in which the spec itself gives the receive side, written out beside the machine so that
statements can say the machine agrees with them: `HandleFrame` by the waiting operation (R101), and the decoder's
transition table (R114). The step uses neither. -/

namespace Sys2Proof.Machine

open Host (Outcome)

/-- R101: `HandleFrame(a, c, p, valid)`, chosen by `S.eng`; each line is the pseudocode of the rule it names. With no
operation waiting there is no `HandleFrame` (R7). -/
def handleFrame (_a c : Byte) (p : List Byte) (valid : Bool) (s : State) : Outcome State Fault Refusal :=
  match s.eng with
  | .idle => .refused .byteNotEnabled
  | .openIWaitUa => -- R119
    if c = 0x07 then .next (complete .ok { disarm s with phase := .opened }) else .next s
  | .openRWaitSet => -- R121
    if c = 0x03 then .next (complete .ok { emitTx (encodeS 0x03 0x07) s with phase := .opened }) else .next s
  | .closeIWaitDisc => -- R124
    if c = 0x0B then .next (complete .ok { emitTx (encodeS 0x01 0x07) (disarm s) with phase := .closed }) else .next s
  | .closeRWaitDisc => -- R126
    if c = 0x0B then .next { emitTx (encodeS 0x01 0x0B) s with eng := .closeRWaitUa } else .next s
  | .closeRWaitUa => -- R127
    if c = 0x07 then .next (complete .ok { s with phase := .closed }) else .next s
  | .sendWaitAck => -- R131 to R134
    if c = ctrlRR (~~~s.txSeq) then .next (complete (.okSent s.hold.length) { disarm s with txSeq := ~~~s.txSeq })
    else if c = ctrlREJ s.txSeq then tryTransmit (disarm s)
    else .next s
  | .recvWait => -- R138 to R142
    if isInf c && !valid then .next (emitTx (encodeS (addrOf s.role (.rej s.rxSeq)) (ctrlREJ s.rxSeq)) s)
    else if c = ctrlI s.rxSeq then
      .next (complete (.data p)
        (emitTx (encodeS (addrOf s.role (.rr (~~~s.rxSeq))) (ctrlRR (~~~s.rxSeq))) { s with rxSeq := ~~~s.rxSeq }))
    else if c = ctrlI (~~~s.rxSeq) then .next (emitTx (encodeS (addrOf s.role (.rr s.rxSeq)) (ctrlRR s.rxSeq)) s)
    else if c = 0x0B then .next (complete .peerClosed s)
    else .next s

/-- The columns of the table of R114, tested in the order written. -/
inductive ByteClass where
  | marker
  | escape
  | addressOrControl
  | otherControl
  | other
deriving DecidableEq, Repr

/-- R114: the column of a byte. -/
def byteClass (b : Byte) : ByteClass :=
  if b = 0x7E then .marker
  else if b = 0x7D then .escape
  else if b = 0x03 ∨ b = 0x01 then .addressOrControl
  else if b ∈ [(0x07 : Byte), 0x0B, 0x05, 0x85, 0x81, 0x00, 0x40] then .otherControl
  else .other

/-- R114: the decoder as one table, row by row. -/
def decoderTable (maxPayload : Nat) (b : Byte) (d : Decoder) : Decoder × DecResult :=
  match d.st, d.esc, byteClass b with
  | .idle, _, .marker => ({ d with st := .flagSeen }, .needMore)
  | .idle, _, _ => ({ d with st := .idle }, .needMore)
  | .flagSeen, _, .marker => ({ d with st := .flagSeen }, .needMore)
  | .flagSeen, _, .addressOrControl => ({ d with st := .addressSeen, addr := b }, .needMore)
  | .flagSeen, _, _ => ({ d with st := .idle }, .needMore)
  | .addressSeen, _, .marker => ({ d with st := .flagSeen }, .needMore)
  | .addressSeen, _, .addressOrControl => ({ d with st := .controlSeen, ctrl := b }, .needMore)
  | .addressSeen, _, .otherControl => ({ d with st := .controlSeen, ctrl := b }, .needMore)
  | .addressSeen, _, _ => ({ d with st := .idle }, .needMore)
  | .controlSeen, _, .marker => ({ d with st := .idle }, .needMore)
  | .controlSeen, _, .escape => ({ d with st := .idle }, .needMore)
  | .controlSeen, _, _ =>
    if b ≠ d.addr ^^^ d.ctrl then ({ d with st := .idle }, .needMore)
    else if isInf d.ctrl then ({ d with st := .inPayload, buf := [], esc := false }, .needMore)
    else ({ d with st := .awaitEndS }, .needMore)
  | .awaitEndS, _, .marker => ({ d with st := .idle }, .frame d.addr d.ctrl [] true)
  | .awaitEndS, _, _ => ({ d with st := .idle }, .needMore)
  | .inPayload, false, .marker =>
    if d.buf = [] then ({ d with st := .idle }, .framingError)
    else ({ d with st := .idle, buf := [] }, .frame d.addr d.ctrl d.buf.dropLast (payloadOk d.buf))
  | .inPayload, false, .escape => ({ d with st := .inPayload, esc := true }, .needMore)
  | .inPayload, false, _ => accumulate maxPayload b d
  | .inPayload, true, .marker => ({ d with st := .idle, esc := false, buf := [] }, .framingError)
  | .inPayload, true, .escape => accumulate maxPayload 0x5D { d with esc := false }
  | .inPayload, true, _ => accumulate maxPayload (b ^^^ 0x20) { d with esc := false }

end Sys2Proof.Machine
end

