-- ==== Sys2Proof/Safety.lean ====
section
/-! DEFINITION. The terms in which claims speak of the machine: legal states and the invariant every step keeps,
runs of several steps, and the relation that hides the unspecified registers. -/

namespace Sys2Proof.Machine

open Host (Outcome)

/-! Legal states. -/

/-- R14: the pairs (`S.phase`, `S.eng`) that can occur. -/
def legalPair : Phase → Eng → Bool
  | .closed, .idle => true
  | .establishing, .openIWaitUa => true
  | .establishing, .openRWaitSet => true
  | .opened, .idle => true
  | .opened, .sendWaitAck => true
  | .opened, .recvWait => true
  | .closing, .closeIWaitDisc => true
  | .closing, .closeRWaitDisc => true
  | .closing, .closeRWaitUa => true
  | _, _ => false

/-- R14: the waits in which the timer is armed. -/
def Eng.timed : Eng → Bool
  | .openIWaitUa | .sendWaitAck | .closeIWaitDisc => true
  | .idle | .openRWaitSet | .recvWait | .closeRWaitDisc | .closeRWaitUa => false

/-- R14: the pair is one that can occur and the timer is armed exactly in the timed waits. -/
def ControlLegal (s : State) : Prop := legalPair s.phase s.eng = true ∧ s.timerArmed = s.eng.timed

/-- R16, R20, R21: the retry budget and its registers. -/
def BudgetLegal (s : State) : Prop :=
  s.attempts ≤ s.maxAttempts ∧ (s.phase ≠ .closed → 1 ≤ s.timeout) ∧
  (s.timerArmed = true → 1 ≤ s.attempts ∧ 1 ≤ s.timerCnt ∧ s.timerCnt ≤ s.timeout)

/-- R8, U14: every counter is within the width of its register, armed or not, in a session or not. -/
structure WidthsHold (s : State) : Prop where
  maxAttempts : s.maxAttempts < 2 ^ s.cfg.attW
  attempts : s.attempts < 2 ^ s.cfg.attW
  timeout : s.timeout < 2 ^ s.cfg.tmoW
  timerCnt : s.timerCnt < 2 ^ s.cfg.tmoW

/-- R118, R123, R130: what `S.hold` holds in each timed wait. -/
def HoldLegal (s : State) : Prop :=
  match s.eng with
  | .openIWaitUa => s.hold = encodeS 0x03 0x03
  | .closeIWaitDisc => s.hold = encodeS 0x03 0x0B
  | .sendWaitAck =>
    ∃ p, p.length ≤ s.cfg.maxPayload ∧ s.hold = encodeI (addrOf s.role (.info s.txSeq)) (ctrlI s.txSeq) p
  | .idle | .openRWaitSet | .recvWait | .closeRWaitDisc | .closeRWaitUa => True

/-- R118, R120, R123, R125: the waits that belong to one role. -/
def RoleLegal (s : State) : Prop :=
  match s.eng with
  | .openIWaitUa | .closeIWaitDisc => s.role = .initiator
  | .openRWaitSet | .closeRWaitDisc | .closeRWaitUa => s.role = .responder
  | .idle | .sendWaitAck | .recvWait => True

/-- R25, R26: what the decoder's registers are in each of its states. -/
def Decoder.Legal (d : Decoder) : Prop :=
  (d.esc = true → d.st = .inPayload) ∧
  match d.st with
  | .idle | .flagSeen => True
  | .addressSeen => isAddress d.addr = true
  | .controlSeen => isAddress d.addr = true ∧ (classify d.ctrl).isSome = true
  | .awaitEndS => isAddress d.addr = true ∧ isSup d.ctrl = true
  | .inPayload => isAddress d.addr = true ∧ isInf d.ctrl = true

/-- The invariant of the engine: what every state that a run reaches satisfies. -/
structure EngineInv (s : State) : Prop where
  control : ControlLegal s
  budget : BudgetLegal s
  widths : WidthsHold s
  memory : Memory.wf s = true
  hold : HoldLegal s
  role : RoleLegal s
  decoder : s.dec.Legal

/-! The three kinds of instruction (the formats of the opcode table). -/

/-- Formats S and I: the nine frames. -/
def isFrame : Instr → Bool
  | .set _ | .ua _ | .disc _ | .rr0 _ | .rr1 _ | .rej0 _ | .rej1 _ | .i0 _ _ _ | .i1 _ _ _ => true
  | .openOp _ _ _ | .send _ | .receive | .close | .escFlag | .escEsc | .literal _ => false

/-- Format P: the three symbols of a protected region. -/
def isSymbol : Instr → Bool
  | .escFlag | .escEsc | .literal _ => true
  | .set _ | .ua _ | .disc _ | .rr0 _ | .rr1 _ | .rej0 _ | .rej1 _ | .i0 _ _ _ | .i1 _ _ _
  | .openOp _ _ _ | .send _ | .receive | .close => false

/-- Format H: the four host operations. -/
def isHostOp : Instr → Bool
  | .openOp _ _ _ | .send _ | .receive | .close => true
  | .set _ | .ua _ | .disc _ | .rr0 _ | .rr1 _ | .rej0 _ | .rej1 _ | .i0 _ _ _ | .i1 _ _ _
  | .escFlag | .escEsc | .literal _ => false

/-- R129, R131, R143: the frames that the wait `e` acts on, `tx` being `S.tx_seq`. -/
def actsOn (e : Eng) (tx : Bit) : Instr → Bool
  | .set _ => e == .openRWaitSet
  | .ua _ => e == .openIWaitUa || e == .closeRWaitUa
  | .disc _ => e == .recvWait || e == .closeIWaitDisc || e == .closeRWaitDisc
  | .rr0 _ => e == .sendWaitAck && tx == 1
  | .rr1 _ => e == .sendWaitAck && tx == 0
  | .rej0 _ => e == .sendWaitAck && tx == 0
  | .rej1 _ => e == .sendWaitAck && tx == 1
  | .i0 _ _ _ | .i1 _ _ _ => e == .recvWait
  | .openOp _ _ _ | .send _ | .receive | .close | .escFlag | .escEsc | .literal _ => false

/-! Runs. -/

/-- `n` steps; a stop ends the run. -/
def runSteps : Nat → State → Outcome State Fault Refusal
  | 0, s => .next s
  | n + 1, s =>
    match step s with
    | .next t => runSteps n t
    | .fault r => .fault r
    | .refused r => .refused r

/-- The line delivers bytes, one `RxByte` event each, after what is already presented (R40). -/
def State.deliver (s : State) (bytes : List Byte) : State :=
  { s with pending := s.pending ++ bytes.map Event.rxByte }

/-- `n` ticks are presented (R148). -/
def State.tickTimes (s : State) (n : Nat) : State := { s with pending := s.pending ++ List.replicate n Event.tick }

/-- The outputs emitted between two states of one run. -/
def newOutputs (s t : State) : List Output := t.out.drop s.out.length

/-! The unspecified registers (R22, R31, U4 to U7). -/

/-- R25: the decoder states in which the address register was written. -/
def DecSt.hasAddr : DecSt → Bool
  | .idle | .flagSeen => false
  | .addressSeen | .controlSeen | .awaitEndS | .inPayload => true

/-- R25: the decoder states in which the control register was written. -/
def DecSt.hasCtrl : DecSt → Bool
  | .idle | .flagSeen | .addressSeen => false
  | .controlSeen | .awaitEndS | .inPayload => true

/-- Two states that differ at most in registers the spec calls unspecified where they are: the role and the retry
budget while the phase is `Closed` (U4), the counter while the timer is not armed (U5), the decoder's address and
control before they are written (U6), the held frame while no operation may retransmit it (U7). -/
structure AgreeOnSpecified (s t : State) : Prop where
  phase : s.phase = t.phase
  eng : s.eng = t.eng
  role : s.phase ≠ .closed → s.role = t.role
  maxAttempts : s.phase ≠ .closed → s.maxAttempts = t.maxAttempts
  timeout : s.phase ≠ .closed → s.timeout = t.timeout
  txSeq : s.txSeq = t.txSeq
  rxSeq : s.rxSeq = t.rxSeq
  attempts : s.attempts = t.attempts
  timerArmed : s.timerArmed = t.timerArmed
  timerCnt : s.timerArmed = true → s.timerCnt = t.timerCnt
  hold : s.eng.timed = true → s.hold = t.hold
  decSt : s.dec.st = t.dec.st
  decAddr : s.dec.st.hasAddr = true → s.dec.addr = t.dec.addr
  decCtrl : s.dec.st.hasCtrl = true → s.dec.ctrl = t.dec.ctrl
  decEsc : s.dec.esc = t.dec.esc
  decBuf : s.dec.buf = t.dec.buf
  cfg : s.cfg = t.cfg
  pending : s.pending = t.pending
  out : s.out = t.out

end Sys2Proof.Machine
end

