-- ==== Sys2Proof/Certificates/Slice0/Obligations.lean ====
section
/-! DEFINITION. The statements for the provers. Each docstring names the rule or section of spec/ it formalises. -/

open Sys2Proof Sys2Proof.Machine

/-! ## Encoding, stuffing, checksums -/

/-- R61, R73, R76: what the encoder writes, the decoder reads, for every instruction with operands in its domain. -/
def Obligations.DecodeEncodeRoundTrip : Prop :=
  ∀ (maxPayload : Nat) (i : Instr), i.wf maxPayload = true → decode maxPayload (encode i) = .ok i

/-- R70, R46: a frame or symbol ends where its own bytes say, whatever bytes follow it on the line. -/
def Obligations.DecodeStopsAtInstructionEnd : Prop :=
  ∀ (maxPayload : Nat) (i : Instr) (bytes rest : List Byte), i.wf maxPayload = true →
    (encode i = .frame bytes → decodeFrame maxPayload (bytes ++ rest) = .ok (i, rest)) ∧
    (encode i = .symbol bytes → decodeSymbol (bytes ++ rest) = .ok (i, rest))

/-- R71, R73: whatever bits the decoder takes for an instruction, its operands are in their domain. -/
def Obligations.DecodedInstructionIsWellFormed : Prop :=
  ∀ (maxPayload : Nat) (e : Encoded) (i : Instr), decode maxPayload e = .ok i → i.wf maxPayload = true

/-- R79: destuffing inverts stuffing, stuffing is injective and destuffing is not, and the decoder's byte-at-a-time
procedure computes `Destuff`, up to the unpaired escape byte that a closing marker then turns into `FramingError`. -/
def Obligations.DestuffInvertsStuffAndDecoderDestuffs : Prop :=
  (∀ s : List Byte, destuff (stuff s) = some s) ∧
  (∀ s t : List Byte, stuff s = stuff t → s = t) ∧
  (∃ t u r : List Byte, t ≠ u ∧ flag ∉ t ∧ flag ∉ u ∧ destuff t = some r ∧ destuff u = some r) ∧
  (∀ (maxPayload : Nat) (d : Decoder) (t : List Byte),
    flag ∉ t → d.st = .inPayload → d.esc = false → d.buf = [] →
      (∀ r, destuff t = some r → r.length ≤ maxPayload + 1 → feed maxPayload t d = { d with buf := r }) ∧
      (destuff t = none → ∃ t' r, t = t' ++ [esc] ∧ destuff t' = some r ∧
        (r.length ≤ maxPayload + 1 →
          feed maxPayload t d = { d with esc := true, buf := r } ∧
          (decodeByte maxPayload flag (feed maxPayload t d)).2 = .framingError)))

/-- R77: the four properties of `Stuff`. -/
def Obligations.StuffProperties : Prop :=
  ∀ s t : List Byte,
    s.length ≤ (stuff s).length ∧ (stuff s).length ≤ 2 * s.length ∧
    (stuff s).length = s.length + s.countP (fun b => b == 0x7E || b == 0x7D) ∧
    (0x7E : Byte) ∉ stuff s ∧
    (∀ l r, stuff s = l ++ 0x7D :: r → ∃ u, r = 0x5E :: u ∨ r = 0x5D :: u) ∧
    (stuff s).getLast? ≠ some 0x7D ∧
    stuff (s ++ t) = stuff s ++ stuff t

/-- R82: the payload check is the comparison of the last byte with the fold of the others, the same as a zero fold of
all; one byte alone is an empty payload, valid exactly when it is `0x00`. -/
def Obligations.PayloadCheckIsZeroFold : Prop :=
  (∀ (p : List Byte) (x : Byte), payloadOk (p ++ [x]) = true ↔ xorFold p = x) ∧
  (∀ r : List Byte, r ≠ [] → (payloadOk r = true ↔ xorFold r = 0x00)) ∧
  (∀ x : Byte, payloadOk [x] = true ↔ x = 0x00)

/-- R84, on destuffed bytes: from a region that passes, another of the same length passes exactly when the flips fold
to zero; so a single flipped bit fails. The same for the three header bytes. -/
def Obligations.ChecksumsDetectFlips : Prop :=
  (∀ r r' : List Byte, r ≠ [] → r.length = r'.length → payloadOk r = true →
    (payloadOk r' = true ↔ xorFold (List.zipWith (· ^^^ ·) r r') = 0)) ∧
  (∀ (r : List Byte) (i j : Nat), (h : i < r.length) → j < 8 → payloadOk r = true →
    payloadOk (r.set i (r[i] ^^^ BitVec.twoPow 8 j)) = false) ∧
  (∀ a c x da dc dx : Byte, headerOk a c x = true →
    (headerOk (a ^^^ da) (c ^^^ dc) (x ^^^ dx) = true ↔ da ^^^ dc ^^^ dx = 0))

/-- R91: the bytes and the length of an Information frame, and its bounds. -/
def Obligations.InformationFrameBytesAndLength : Prop :=
  ∀ (maxPayload : Nat) (a c : Byte) (p : List Byte), p.length ≤ maxPayload →
    encodeI a c p = [0x7E, a, c, a ^^^ c] ++ stuff (p ++ [xorFold p]) ++ [0x7E] ∧
    (encodeI a c p).length = p.length + 6 + (p ++ [xorFold p]).countP (fun b => b == 0x7E || b == 0x7D) ∧
    6 ≤ (encodeI a c p).length ∧ (encodeI a c p).length ≤ 2 * maxPayload + 7 ∧
    encodeI a c [] = [0x7E, a, c, a ^^^ c, 0x00, 0x7E]

/-- R92: D0's one `Encode` is `EncodeS` or `EncodeI` by the control field, and in every frame the marker occurs exactly
twice, first and last. -/
def Obligations.FramesHaveTwoMarkers : Prop :=
  ∀ (a : Byte) (k : ControlField) (p : List Byte), isAddress a = true →
    (k.isInfo = false → encodeField k a p = encodeS a k.byte) ∧
    (k.isInfo = true → encodeField k a p = encodeI a k.byte p) ∧
    ∃ inner, encodeField k a p = 0x7E :: inner ++ [0x7E] ∧ (0x7E : Byte) ∉ inner

/-- R68: no header byte needs stuffing, and the eighteen BCC1 values. -/
def Obligations.HeaderBytesNeverReserved : Prop :=
  (∀ a ∈ [(0x03 : Byte), 0x01], ∀ c ∈ [(0x03 : Byte), 0x07, 0x0B, 0x05, 0x85, 0x01, 0x81, 0x00, 0x40],
    ∀ b ∈ [a, c, bcc1 a c], b ≠ 0x7E ∧ b ≠ 0x7D) ∧
  [(0x03 : Byte), 0x07, 0x0B, 0x05, 0x85, 0x01, 0x81, 0x00, 0x40].map (bcc1 0x03) =
    [0x00, 0x04, 0x08, 0x06, 0x86, 0x02, 0x82, 0x03, 0x43] ∧
  [(0x03 : Byte), 0x07, 0x0B, 0x05, 0x85, 0x01, 0x81, 0x00, 0x40].map (bcc1 0x01) =
    [0x02, 0x06, 0x0A, 0x04, 0x84, 0x00, 0x80, 0x01, 0x41]

/-- R66: `Classify` matches exactly the nine control values; `IsSup` and `IsInf` go by it. -/
def Obligations.ControlClassification : Prop :=
  ∀ c : Byte,
    (classify c = if c = 0x03 then some .set else if c = 0x07 then some .ua else if c = 0x0B then some .disc
      else if c = 0x05 then some (.rr 0) else if c = 0x85 then some (.rr 1) else if c = 0x01 then some (.rej 0)
      else if c = 0x81 then some (.rej 1) else if c = 0x00 then some (.info 0) else if c = 0x40 then some (.info 1)
      else none) ∧
    (∀ n : Bit, (classify c = some (.rr n) ↔ c = ctrlRR n) ∧ (classify c = some (.rej n) ↔ c = ctrlREJ n) ∧
      (classify c = some (.info n) ↔ c = ctrlI n)) ∧
    (isSup c = true ↔ c ∈ [(0x03 : Byte), 0x07, 0x0B, 0x05, 0x85, 0x01, 0x81]) ∧
    (isInf c = true ↔ c ∈ [(0x00 : Byte), 0x40])

/-- R62: the address byte of every frame a role sends. -/
def Obligations.AddressByteTable : Prop :=
  ∀ n : Bit,
    addrOf .initiator .set = 0x03 ∧
    addrOf .initiator .disc = 0x03 ∧ addrOf .responder .disc = 0x01 ∧
    addrOf .initiator (.info n) = 0x03 ∧ addrOf .responder (.info n) = 0x01 ∧
    addrOf .initiator .ua = 0x01 ∧ addrOf .responder .ua = 0x03 ∧
    addrOf .initiator (.rr n) = 0x01 ∧ addrOf .responder (.rr n) = 0x03 ∧
    addrOf .initiator (.rej n) = 0x01 ∧ addrOf .responder (.rej n) = 0x03

/-- Words written out from the spec's listings (R64, R69, R73, R93 to R98) decode to the instructions they stand for. -/
def Obligations.SpecWordsDecode : Prop :=
  decode 16 (.frame [0x7E, 0x03, 0x03, 0x00, 0x7E]) = .ok (.set 0x03) ∧
  decode 16 (.frame [0x7E, 0x01, 0x07, 0x06, 0x7E]) = .ok (.ua 0x01) ∧
  decode 16 (.frame [0x7E, 0x01, 0x0B, 0x0A, 0x7E]) = .ok (.disc 0x01) ∧
  decode 16 (.frame [0x7E, 0x03, 0x85, 0x86, 0x7E]) = .ok (.rr1 0x03) ∧
  decode 16 (.frame [0x7E, 0x03, 0x01, 0x02, 0x7E]) = .ok (.rej0 0x03) ∧
  decode 16 (.frame [0x7E, 0x03, 0x00, 0x03, 0x41, 0x3C, 0x7D, 0x5D, 0x7E]) = .ok (.i0 0x03 [0x41, 0x3C] 0x7D) ∧
  decode 16 (.frame [0x7E, 0x03, 0x40, 0x43, 0x43, 0x44, 0x07, 0x7E]) = .ok (.i1 0x03 [0x43, 0x44] 0x07) ∧
  decode 16 (.command ⟨0b00, 1, 3, 5, []⟩) = .ok (.openOp .responder 3 5) ∧
  decode 16 (.command ⟨0b11, 0, 0, 0, []⟩) = .ok .close ∧
  decode 16 (.symbol [0x7D, 0x5E]) = .ok .escFlag

/-! ## The decoder -/

/-- R114: the decoder is the transition table, from every legal decoder state. -/
def Obligations.DecoderFollowsTheTable : Prop :=
  ∀ (maxPayload : Nat) (b : Byte) (d : Decoder), d.Legal → decodeByte maxPayload b d = decoderTable maxPayload b d

/-- R101: the `RxByte` step is `DecodeByte` and then, on a frame, `HandleFrame` by the waiting operation; a byte that
completes no frame changes nothing but the decoder, the timer included. -/
def Obligations.RxByteDecodesThenHandles : Prop :=
  ∀ (s : State) (b : Byte) (rest : List Event), s.pending = .rxByte b :: rest → s.eng ≠ .idle →
    let d := (decodeByte s.cfg.maxPayload b s.dec).1
    let t := { s with pending := rest, dec := d }
    ((decodeByte s.cfg.maxPayload b s.dec).2 = .needMore → step s = .next t) ∧
    ((decodeByte s.cfg.maxPayload b s.dec).2 = .framingError → step s = .next t) ∧
    (∀ a c p valid, (decodeByte s.cfg.maxPayload b s.dec).2 = .frame a c p valid →
      step s = handleFrame a c p valid t)

/-- R115 (a), for every frame a line can carry, damaged payload checksums included: fed byte by byte to a decoder in
`Idle` or `FlagSeen`, the bytes of a frame give `NeedMore` up to the last and then that frame; a supervisory frame with an
empty payload and as valid (R111). -/
def Obligations.FrameBytesGiveTheFrame : Prop :=
  ∀ (maxPayload : Nat) (i : Instr) (bytes : List Byte) (d : Decoder),
    i.wf maxPayload = true → encode i = .frame bytes → (d.st = .idle ∨ d.st = .flagSeen) →
    ∃ a c p x, instrOfFrame a c p x = some i ∧ (isSup c = true → p = [] ∧ x = 0) ∧
      feedResults maxPayload bytes d =
        List.replicate (bytes.length - 1) .needMore ++ [.frame a c p (xorFold p == x)] ∧
      (feed maxPayload bytes d).st = .idle

/-- R70, R100: whatever spelling of a frame the whole-frame decoder takes (a peer may write `7D 41` for `61`), the
byte-at-a-time decoder takes the same bytes for the same frame; a supervisory frame with an empty payload and as valid
(R111). -/
def Obligations.ByteDecoderAgreesWithFrameDecoder : Prop :=
  ∀ (maxPayload : Nat) (i : Instr) (bytes rest : List Byte) (d : Decoder),
    decodeFrame maxPayload bytes = .ok (i, rest) → (d.st = .idle ∨ d.st = .flagSeen) →
    ∃ used a c p x, bytes = used ++ rest ∧ instrOfFrame a c p x = some i ∧ (isSup c = true → p = [] ∧ x = 0) ∧
      feedResults maxPayload used d =
        List.replicate (used.length - 1) .needMore ++ [.frame a c p (xorFold p == x)]

/-- R115 (b): two markers in a row leave any legal decoder in `FlagSeen`; one marker does from `Idle`, `FlagSeen` and
`AddressSeen` and ends in `Idle` from the other three. -/
def Obligations.TwoMarkersResynchronise : Prop :=
  ∀ (maxPayload : Nat) (d : Decoder), d.Legal →
    (feed maxPayload [0x7E, 0x7E] d).st = .flagSeen ∧
    ((d.st = .idle ∨ d.st = .flagSeen ∨ d.st = .addressSeen) → (feed maxPayload [0x7E] d).st = .flagSeen) ∧
    ((d.st = .controlSeen ∨ d.st = .awaitEndS ∨ d.st = .inPayload) → (feed maxPayload [0x7E] d).st = .idle)

/-- R113: `FramingError` arises in exactly three places, leaves the decoder in `Idle`, and the waiting operation does
nothing on it; the silent drops of R103 to R106 are not even `FramingError`. -/
def Obligations.FramingErrorsAreLocal : Prop :=
  (∀ (maxPayload : Nat) (b : Byte) (d : Decoder),
    ((decodeByte maxPayload b d).2 = .framingError ↔
      d.st = .inPayload ∧
        ((d.esc = true ∧ b = 0x7E) ∨
         (d.buf.length = maxPayload + 1 ∧ b ≠ 0x7E ∧ (d.esc = true ∨ b ≠ 0x7D)) ∨
         (d.esc = false ∧ b = 0x7E ∧ d.buf = []))) ∧
    ((decodeByte maxPayload b d).2 = .framingError → (decodeByte maxPayload b d).1.st = .idle) ∧
    ((d.st = .flagSeen ∨ d.st = .addressSeen ∨ d.st = .controlSeen ∨ (d.st = .awaitEndS ∧ b ≠ 0x7E)) →
      (decodeByte maxPayload b d).2 = .needMore)) ∧
  (∀ (s : State) (b : Byte) (rest : List Event), s.pending = .rxByte b :: rest → s.eng ≠ .idle →
    (decodeByte s.cfg.maxPayload b s.dec).2 = .framingError →
    step s = .next { s with pending := rest, dec := (decodeByte s.cfg.maxPayload b s.dec).1 })

/-- R76, R107, R108, R109: inside a protected region each symbol appends the byte it stands for, or discards the frame
when the buffer is full; nothing else of the state changes. -/
def Obligations.SymbolsAccumulate : Prop :=
  ∀ (s : State) (v : Byte), s.eng ≠ .idle → s.dec.st = .inPayload → s.dec.esc = false →
    let after (w : Byte) : State :=
      { s with
        dec :=
          if s.dec.buf.length = s.cfg.maxPayload + 1 then { s.dec with st := .idle, esc := false, buf := [] }
          else { s.dec with buf := s.dec.buf ++ [w] } }
    exec .escFlag s = .next (after 0x7E) ∧
    exec .escEsc s = .next (after 0x7D) ∧
    (v ≠ 0x7E → v ≠ 0x7D → exec (.literal v) s = .next (after v))

/-- R72, R102 to R106: outside a protected region an escape pair drops whatever was in progress and a byte in `Idle` is
discarded; a symbol always completes and changes the decoder only. -/
def Obligations.SymbolsOutsideARegion : Prop :=
  ∀ (s : State) (v : Byte), s.eng ≠ .idle → s.dec.Legal →
    (s.dec.st ≠ .inPayload →
      exec .escFlag s = .next { s with dec := { s.dec with st := .idle } } ∧
      exec .escEsc s = .next { s with dec := { s.dec with st := .idle } }) ∧
    (s.dec.st = .idle → v ≠ 0x7E → exec (.literal v) s = .next s) ∧
    (∀ i, isSymbol i = true → ∃ d, exec i s = .next { s with dec := d })

/-! ## Host operations -/

/-- R117, R118, R120: `OPEN` in every phase, for both roles, with a budget and with none; `timeout = 0` and operands that
do not fit the registers (R8, U14) are refused; that the name is `timeoutZero` where both hold is the model's choice
(assumption log 7). -/
def Obligations.OpenStartsASession : Prop :=
  ∀ (s : State) (n t : Nat) (role : Role), s.eng = .idle → 1 ≤ t →
    let opened : State :=
      { s with
        role := role, maxAttempts := n, timeout := t, txSeq := 0, rxSeq := 0, attempts := 0, timerArmed := false
        dec := { s.dec with st := .idle, esc := false, buf := [] }
        phase := .establishing }
    exec (.openOp role n 0) s = .refused .timeoutZero ∧
    (2 ^ s.cfg.attW ≤ n ∨ 2 ^ s.cfg.tmoW ≤ t → exec (.openOp role n t) s = .refused .budgetTooWide) ∧
    (n < 2 ^ s.cfg.attW → t < 2 ^ s.cfg.tmoW →
      (s.phase ≠ .closed → exec (.openOp role n t) s = .next { s with out := s.out ++ [.rsp .invalidState] }) ∧
      (s.phase = .closed → role = .responder →
        exec (.openOp role n t) s = .next { opened with eng := .openRWaitSet }) ∧
      (s.phase = .closed → role = .initiator → 1 ≤ n →
        exec (.openOp role n t) s = .next
          { opened with
            hold := [0x7E, 0x03, 0x03, 0x00, 0x7E], eng := .openIWaitUa
            attempts := 1, timerCnt := t, timerArmed := true
            out := s.out ++ [.tx [0x7E, 0x03, 0x03, 0x00, 0x7E]] }) ∧
      (s.phase = .closed → role = .initiator → n = 0 →
        exec (.openOp role n t) s = .next
          { opened with
            hold := [0x7E, 0x03, 0x03, 0x00, 0x7E], phase := .closed, eng := .idle
            out := s.out ++ [.rsp .connectionFailed] }))

/-- R122, R123, R125: `CLOSE` from `Idle`, in every phase and for both roles. -/
def Obligations.CloseFromIdle : Prop :=
  ∀ s : State, s.eng = .idle →
    (s.phase ≠ .opened → exec .close s = .next { s with out := s.out ++ [.rsp .invalidState] }) ∧
    (s.phase = .opened → s.role = .responder →
      exec .close s = .next { s with phase := .closing, eng := .closeRWaitDisc }) ∧
    (s.phase = .opened → s.role = .initiator → 1 ≤ s.maxAttempts →
      exec .close s = .next
        { s with
          phase := .closing, eng := .closeIWaitDisc, hold := [0x7E, 0x03, 0x0B, 0x08, 0x7E]
          attempts := 1, timerCnt := s.timeout, timerArmed := true
          out := s.out ++ [.tx [0x7E, 0x03, 0x0B, 0x08, 0x7E]] }) ∧
    (s.phase = .opened → s.role = .initiator → s.maxAttempts = 0 →
      exec .close s = .next
        { s with
          phase := .closed, eng := .idle, hold := [0x7E, 0x03, 0x0B, 0x08, 0x7E], attempts := 0
          out := s.out ++ [.rsp .closeFailed] })

/-- R128: `CLOSE` while a `SEND` or a `RECEIVE` is outstanding: the result `Aborted` first, then the close; in the five
other waits it is not enabled. -/
def Obligations.CloseAbortsTheOperation : Prop :=
  ∀ s : State,
    ((s.eng = .sendWaitAck ∨ s.eng = .recvWait) →
      (s.role = .responder →
        exec .close s = .next
          { s with
            timerArmed := false, phase := .closing, eng := .closeRWaitDisc, out := s.out ++ [.rsp .aborted] }) ∧
      (s.role = .initiator → 1 ≤ s.maxAttempts →
        exec .close s = .next
          { s with
            phase := .closing, eng := .closeIWaitDisc, hold := [0x7E, 0x03, 0x0B, 0x08, 0x7E]
            attempts := 1, timerCnt := s.timeout, timerArmed := true
            out := s.out ++ [.rsp .aborted, .tx [0x7E, 0x03, 0x0B, 0x08, 0x7E]] }) ∧
      (s.role = .initiator → s.maxAttempts = 0 →
        exec .close s = .next
          { s with
            timerArmed := false, phase := .closed, eng := .idle, hold := [0x7E, 0x03, 0x0B, 0x08, 0x7E]
            attempts := 0, out := s.out ++ [.rsp .aborted, .rsp .closeFailed] })) ∧
    (s.eng ≠ .idle → s.eng ≠ .sendWaitAck → s.eng ≠ .recvWait →
      exec .close s = .refused .commandNotEnabled)

/-- R130, R136: `SEND` in every phase, with every payload length, with a budget and with none. -/
def Obligations.SendTransmitsTheFrame : Prop :=
  ∀ (s : State) (p : List Byte), s.eng = .idle →
    let frame := encodeI (addrOf s.role (.info s.txSeq)) (ctrlI s.txSeq) p
    (s.phase ≠ .opened → exec (.send p) s = .next { s with out := s.out ++ [.rsp .invalidState] }) ∧
    (s.phase = .opened → s.cfg.maxPayload < p.length →
      exec (.send p) s = .next { s with out := s.out ++ [.rsp .payloadTooLarge] }) ∧
    (s.phase = .opened → p.length ≤ s.cfg.maxPayload → 1 ≤ s.maxAttempts →
      exec (.send p) s = .next
        { s with
          hold := frame, eng := .sendWaitAck, attempts := 1, timerCnt := s.timeout, timerArmed := true
          out := s.out ++ [.tx frame] }) ∧
    (s.phase = .opened → p.length ≤ s.cfg.maxPayload → s.maxAttempts = 0 →
      exec (.send p) s = .next { s with hold := frame, attempts := 0, out := s.out ++ [.rsp .transmitFailed] })

/-- R137: `RECEIVE` in every phase. -/
def Obligations.ReceiveWaits : Prop :=
  ∀ s : State, s.eng = .idle →
    (s.phase ≠ .opened → exec .receive s = .next { s with out := s.out ++ [.rsp .invalidState] }) ∧
    (s.phase = .opened → exec .receive s = .next { s with eng := .recvWait })

/-! ## Frames received -/

/-- R121: SET, with either address, answered by UA in `OpenR_WaitSet`. -/
def Obligations.SetOpensTheResponder : Prop :=
  ∀ (s : State) (a : Byte), s.eng = .openRWaitSet →
    exec (.set a) s = .next
      { s with
        phase := .opened, eng := .idle
        out := s.out ++ [.tx [0x7E, 0x03, 0x07, 0x04, 0x7E], .rsp .ok] }

/-- R119, R127: UA, with either address, completes the Initiator's open and the Responder's close. -/
def Obligations.UaCompletesOpenAndClose : Prop :=
  ∀ (s : State) (a : Byte),
    (s.eng = .openIWaitUa →
      exec (.ua a) s = .next
        { s with timerArmed := false, phase := .opened, eng := .idle, out := s.out ++ [.rsp .ok] }) ∧
    (s.eng = .closeRWaitUa →
      exec (.ua a) s = .next { s with phase := .closed, eng := .idle, out := s.out ++ [.rsp .ok] })

/-- R124, R126, R141: DISC, with either address, in the three waits that act on it. -/
def Obligations.DiscEndsReceiveAndCloses : Prop :=
  ∀ (s : State) (a : Byte),
    (s.eng = .recvWait →
      exec (.disc a) s = .next { s with eng := .idle, out := s.out ++ [.rsp .peerClosed] }) ∧
    (s.eng = .closeIWaitDisc →
      exec (.disc a) s = .next
        { s with
          timerArmed := false, phase := .closed, eng := .idle
          out := s.out ++ [.tx [0x7E, 0x01, 0x07, 0x06, 0x7E], .rsp .ok] }) ∧
    (s.eng = .closeRWaitDisc →
      exec (.disc a) s = .next
        { s with eng := .closeRWaitUa, out := s.out ++ [.tx [0x7E, 0x01, 0x0B, 0x0A, 0x7E]] })

/-- R132: the RR that names the number after the one in flight ends the `SEND`, with either address. -/
def Obligations.RrAcknowledgesTheFrame : Prop :=
  ∀ (s : State) (a : Byte), s.eng = .sendWaitAck →
    (s.txSeq = 0 →
      exec (.rr1 a) s = .next
        { s with timerArmed := false, txSeq := 1, eng := .idle, out := s.out ++ [.rsp (.okSent s.hold.length)] }) ∧
    (s.txSeq = 1 →
      exec (.rr0 a) s = .next
        { s with timerArmed := false, txSeq := 0, eng := .idle, out := s.out ++ [.rsp (.okSent s.hold.length)] })

/-- R133: the REJ that names the number in flight retransmits at once, or ends the `SEND` when the budget is spent. -/
def Obligations.RejRetransmits : Prop :=
  ∀ (s : State) (a : Byte) (i : Instr), s.eng = .sendWaitAck →
    ((s.txSeq = 0 ∧ i = .rej0 a) ∨ (s.txSeq = 1 ∧ i = .rej1 a)) →
    (s.attempts < s.maxAttempts →
      exec i s = .next
        { s with
          attempts := s.attempts + 1, timerCnt := s.timeout, timerArmed := true, out := s.out ++ [.tx s.hold] }) ∧
    (s.maxAttempts ≤ s.attempts →
      exec i s = .next { s with timerArmed := false, eng := .idle, out := s.out ++ [.rsp .transmitFailed] })

/-- R138, R139, R140: an Information frame in `Recv_Wait`: new, duplicate or damaged. `i` is the frame numbered `n`. -/
def Obligations.InformationFrameReceived : Prop :=
  ∀ (s : State) (a x : Byte) (p : List Byte) (n : Bit) (i : Instr), s.eng = .recvWait →
    ((n = 0 ∧ i = .i0 a p x) ∨ (n = 1 ∧ i = .i1 a p x)) →
    (x = xorFold p → n = s.rxSeq →
      exec i s = .next
        { s with
          rxSeq := ~~~s.rxSeq, eng := .idle
          out := s.out ++ [.tx (encodeS (addrOf s.role (.rr (~~~s.rxSeq))) (ctrlRR (~~~s.rxSeq))), .rsp (.data p)] }) ∧
    (x = xorFold p → n = ~~~s.rxSeq →
      exec i s = .next
        { s with out := s.out ++ [.tx (encodeS (addrOf s.role (.rr s.rxSeq)) (ctrlRR s.rxSeq))] }) ∧
    (x ≠ xorFold p →
      exec i s = .next
        { s with out := s.out ++ [.tx (encodeS (addrOf s.role (.rej s.rxSeq)) (ctrlREJ s.rxSeq))] })

/-- R129, R134, R142: while an operation waits, a frame that its wait does not act on changes nothing at all. -/
def Obligations.OtherFramesAreIgnored : Prop :=
  ∀ (s : State) (i : Instr), isFrame i = true → s.eng ≠ .idle → actsOn s.eng s.txSeq i = false →
    exec i s = .next s

/-- R129: no RR and no REJ is sent outside `Recv_Wait`. -/
def Obligations.NoAcknowledgmentOutsideReceive : Prop :=
  ∀ s t : State, EngineInv s → step s = .next t → s.eng ≠ .recvWait →
    ∀ (a : Byte) (n : Bit),
      .tx (encodeS a (ctrlRR n)) ∉ newOutputs s t ∧ .tx (encodeS a (ctrlREJ n)) ∉ newOutputs s t

/-! ## The retry sequencer -/

/-- R146, R147: one transmission under the budget, and the failure of each of the three operations. -/
def Obligations.TryTransmitUnderTheBudget : Prop :=
  ∀ s : State,
    (s.attempts < s.maxAttempts →
      tryTransmit s = .next
        { s with
          attempts := s.attempts + 1, timerCnt := s.timeout, timerArmed := true, out := s.out ++ [.tx s.hold] }) ∧
    (s.maxAttempts ≤ s.attempts → s.eng = .openIWaitUa →
      tryTransmit s = .next { s with phase := .closed, eng := .idle, out := s.out ++ [.rsp .connectionFailed] }) ∧
    (s.maxAttempts ≤ s.attempts → s.eng = .sendWaitAck →
      tryTransmit s = .next { s with eng := .idle, out := s.out ++ [.rsp .transmitFailed] }) ∧
    (s.maxAttempts ≤ s.attempts → s.eng = .closeIWaitDisc →
      tryTransmit s = .next { s with phase := .closed, eng := .idle, out := s.out ++ [.rsp .closeFailed] })

/-- R148: the `Tick` step in every state. -/
def Obligations.TickCountsDownThenExpires : Prop :=
  ∀ (s : State) (rest : List Event), s.pending = .tick :: rest →
    (s.timerArmed = false → step s = .next { s with pending := rest }) ∧
    (s.timerArmed = true → 2 ≤ s.timerCnt →
      step s = .next { s with pending := rest, timerCnt := s.timerCnt - 1 }) ∧
    (s.timerArmed = true → s.timerCnt < 2 →
      step s = tryTransmit { s with pending := rest, timerArmed := false })

/-- R150: a retry-controlled frame that nothing answers. From the state its first transmission leaves, after `k` ticks
the frame was emitted again exactly `k / T` times while `k < N * T`, and the failure is given at tick `N * T`. -/
def Obligations.UnansweredFrameIsSentExactlyNTimes : Prop :=
  ∀ (s : State) (N T : Nat), s.eng.timed = true → s.timerArmed = true → s.attempts = 1 →
    s.maxAttempts = N → s.timeout = T → s.timerCnt = T → 1 ≤ N → 1 ≤ T → s.pending = [] →
    (∀ k, k < N * T → ∃ t, runSteps k (s.tickTimes k) = .next t ∧
      newOutputs s t = List.replicate (k / T) (.tx s.hold) ∧ t.eng = s.eng ∧ t.phase = s.phase ∧
      t.attempts = 1 + k / T) ∧
    (∃ t r, runSteps (N * T) (s.tickTimes (N * T)) = .next t ∧
      newOutputs s t = List.replicate (N - 1) (.tx s.hold) ++ [.rsp r] ∧ t.eng = .idle ∧
      r = (match s.eng with
        | .openIWaitUa => .connectionFailed
        | .sendWaitAck => .transmitFailed
        | _ => .closeFailed) ∧
      t.phase = (if s.eng = .sendWaitAck then s.phase else .closed))

/-- R55, R146, R150: while a retry-controlled operation waits, the held frame, the send number, the budget and the role
do not change; a step that stays in the wait emits nothing but the held frame, once for each attempt it adds. -/
def Obligations.HeldFrameIsResentUnchangedAndCounted : Prop :=
  ∀ s t : State, s.eng.timed = true → step s = .next t → t.eng = s.eng →
    t.hold = s.hold ∧ t.txSeq = s.txSeq ∧ t.maxAttempts = s.maxAttempts ∧ t.timeout = s.timeout ∧ t.role = s.role ∧
    ∃ k, k ≤ 1 ∧ newOutputs s t = List.replicate k (.tx s.hold) ∧ t.attempts = s.attempts + k

/-! ## The machine as a whole -/

/-- R14, the ranges of R16, R20 to R27 and the widths of R8: the invariant is kept by every step from every state that has it. -/
def Obligations.EveryStepKeepsTheInvariant : Prop :=
  ∀ s t : State, EngineInv s → step s = .next t → EngineInv t

/-- R31: the reset state has the invariant. That `max_attempts`, `timeout` and `timer_cnt`, which R31 leaves unspecified,
are within their widths (`WidthsHold`) rests on the zeros the model gives them, its choice (assumption log 2). -/
def Obligations.ResetHasTheInvariant : Prop := EngineInv State.reset

/-- R14: the pairs (`S.phase`, `S.eng`) that occur in runs from reset, under any inputs, are exactly the nine listed, and
the timer is armed exactly in the three timed waits. For every value of the parameters; that each pair occurs, for every
engine whose registers hold a budget of one attempt and one tick. -/
def Obligations.ExactlyTheListedPairsOccur : Prop :=
  (∀ (c : Config) (inputs : List Event) (n : Nat) (t : State),
    runSteps n { State.reset with cfg := c, pending := inputs } = .next t →
      ((t.phase, t.eng) ∈
        [(Phase.closed, Eng.idle), (.establishing, .openIWaitUa), (.establishing, .openRWaitSet), (.opened, .idle),
         (.opened, .sendWaitAck), (.opened, .recvWait), (.closing, .closeIWaitDisc), (.closing, .closeRWaitDisc),
         (.closing, .closeRWaitUa)]) ∧
      (t.timerArmed = true ↔ t.eng = .openIWaitUa ∨ t.eng = .sendWaitAck ∨ t.eng = .closeIWaitDisc)) ∧
  (∀ c : Config, 1 < 2 ^ c.attW → 1 < 2 ^ c.tmoW → ∀ pair ∈
      [(Phase.closed, Eng.idle), (.establishing, .openIWaitUa), (.establishing, .openRWaitSet), (.opened, .idle),
       (.opened, .sendWaitAck), (.opened, .recvWait), (.closing, .closeIWaitDisc), (.closing, .closeRWaitDisc),
       (.closing, .closeRWaitUa)],
    ∃ (inputs : List Event) (n : Nat) (t : State),
      runSteps n { State.reset with cfg := c, pending := inputs } = .next t ∧ (t.phase, t.eng) = pair)

/-- R116: the phase moves along `Closed`, `Establishing`, `Open`, `Closing`, `Closed`, or back to `Closed` when an
Initiator's open fails; with a budget of 0 a close passes `Closing` within one step. `Reset` is left out. -/
def Obligations.PhaseEdges : Prop :=
  ∀ s t : State, ControlLegal s → step s = .next t →
    (∀ rest, takeEvent s.eng false s.pending ≠ some (.reset, rest)) →
    t.phase = s.phase ∨
    (s.phase, t.phase) ∈
      [(Phase.closed, Phase.establishing), (.establishing, .opened), (.establishing, .closed), (.opened, .closing),
       (.closing, .closed)] ∨
    (s.phase = .opened ∧ t.phase = .closed ∧ s.role = .initiator ∧ s.maxAttempts = 0)

/-- R19: what advances the two sequence bits. -/
def Obligations.SequenceBitsAdvanceOnlyOnAcceptance : Prop :=
  (∀ (i : Instr) (s t : State), exec i s = .next t → (∀ role n k, i ≠ .openOp role n k) →
    (t.txSeq ≠ s.txSeq →
      s.eng = .sendWaitAck ∧ t.txSeq = ~~~s.txSeq ∧ newOutputs s t = [.rsp (.okSent s.hold.length)] ∧
      ((s.txSeq = 0 ∧ ∃ a, i = .rr1 a) ∨ (s.txSeq = 1 ∧ ∃ a, i = .rr0 a))) ∧
    (t.rxSeq ≠ s.rxSeq →
      s.eng = .recvWait ∧ t.rxSeq = ~~~s.rxSeq ∧
      ∃ a p, (if s.rxSeq = 0 then i = .i0 a p (xorFold p) else i = .i1 a p (xorFold p)) ∧
        newOutputs s t =
          [.tx (encodeS (addrOf s.role (.rr t.rxSeq)) (ctrlRR t.rxSeq)), .rsp (.data p)])) ∧
  (∀ s t : State, tickStep s = .next t → t.txSeq = s.txSeq ∧ t.rxSeq = s.rxSeq)

/-- R9: no command but `OPEN`, and no frame, symbol or tick, writes the budget or the role; and no `OPEN` does while a
session exists. -/
def Obligations.OnlyOpenWritesBudgetAndRole : Prop :=
  (∀ (i : Instr) (s t : State), exec i s = .next t → ((∀ role n k, i ≠ .openOp role n k) ∨ s.phase ≠ .closed) →
    t.role = s.role ∧ t.maxAttempts = s.maxAttempts ∧ t.timeout = s.timeout) ∧
  (∀ s t : State, tickStep s = .next t →
    t.role = s.role ∧ t.maxAttempts = s.maxAttempts ∧ t.timeout = s.timeout)

/-- R51: the outputs of one step and their order, `Aborted` never after a `TX`; the history only grows. -/
def Obligations.OutputsOfOneStep : Prop :=
  ∀ s t : State, step s = .next t →
    ∃ new, t.out = s.out ++ new ∧
      (new = [] ∨ (∃ f, new = [.tx f]) ∨ (∃ r, new = [.rsp r]) ∨ (∃ f r, r ≠ .aborted ∧ new = [.tx f, .rsp r]) ∨
       ((s.eng = .sendWaitAck ∨ s.eng = .recvWait) ∧ t.phase = .closing ∧ (∃ f, new = [.rsp .aborted, .tx f])) ∨
       ((s.eng = .sendWaitAck ∨ s.eng = .recvWait) ∧ t.phase = .closed ∧ new = [.rsp .aborted, .rsp .closeFailed]))

/-- R7: which events are taken in which state; one that is not stays with the environment. That the engine then waits
as it is, or takes a later event first, is the model's way of saying so (assumption log 3). -/
def Obligations.OnlyEnabledEventsAreTaken : Prop :=
  ∀ (s : State) (e : Event) (rest : List Event), s.pending = e :: rest →
    let taken : Prop :=
      match e with
      | .reset => True
      | .tick => True
      | .rxByte _ => s.eng ≠ .idle
      | .cmd m => s.eng = .idle ∨ (m.code = 0b11 ∧ (s.eng = .sendWaitAck ∨ s.eng = .recvWait))
    (taken → step s = handle e { s with pending := rest }) ∧
    (¬ taken → rest = [] → step s = .next s) ∧
    (¬ taken → ∀ t, step s = .next t → t.pending.head? = some e)

/-- R101, R73: a step runs the decoded instruction. A command message runs its operation; the last byte of a frame runs
the frame, with the decoder back in `Idle`; the byte that completes a symbol runs the symbol, with the escape byte
before it already spent. -/
def Obligations.StepRunsTheDecodedInstruction : Prop :=
  ∀ (s : State) (rest : List Event) (i : Instr),
    (∀ m, s.pending = .cmd m :: rest → s.eng = .idle → decodeCommand m = .ok i →
      step s = exec i { s with pending := rest }) ∧
    (s.pending = .rxByte 0x7E :: rest → s.eng ≠ .idle → s.dec.st = .awaitEndS →
      instrOfFrame s.dec.addr s.dec.ctrl [] 0 = some i →
      step s = exec i { s with pending := rest, dec := { s.dec with st := .idle } }) ∧
    (∀ p x, s.pending = .rxByte 0x7E :: rest → s.eng ≠ .idle → s.dec.st = .inPayload → s.dec.esc = false →
      s.dec.buf = p ++ [x] → instrOfFrame s.dec.addr s.dec.ctrl p x = some i →
      step s = exec i { s with pending := rest, dec := { s.dec with st := .idle, buf := [] } }) ∧
    (∀ b, s.pending = .rxByte b :: rest → s.eng ≠ .idle → s.dec.st = .inPayload →
      decodeSymbol (if s.dec.esc then [0x7D, b] else [b]) = .ok (i, []) →
      step s = exec i { s with pending := rest, dec := { s.dec with esc := false } })

/-- R115, R101, R70: the bytes of a frame on the line run the frame. From a wait whose decoder is in `Idle` or
`FlagSeen`, the steps that take the bytes of an encoded frame end as the frame's own effect. -/
def Obligations.FrameOnTheLineRunsTheFrame : Prop :=
  ∀ (s : State) (i : Instr) (bytes : List Byte) (rest : List Event),
    i.wf s.cfg.maxPayload = true → encode i = .frame bytes → s.eng ≠ .idle →
    (s.dec.st = .idle ∨ s.dec.st = .flagSeen) → s.pending = bytes.map Event.rxByte ++ rest →
    ∃ d : Decoder, d.st = .idle ∧ runSteps bytes.length s = exec i { s with dec := d, pending := rest }

/-- R7, R8, U9 to U11, U14: exactly where an instruction is refused, and that a step refuses nothing but `OPEN` with
`timeout = 0` or with operands that do not fit the registers. Which name is given where several refusals apply is the
model's choice, and that a step refuses only these two is its inference from R7 (assumption log 7). -/
def Obligations.RefusedExactlyOutsideTheDomain : Prop :=
  (∀ (i : Instr) (s : State) (r : Refusal), exec i s = .refused r ↔
    (r = .timeoutZero ∧ ∃ role n, i = .openOp role n 0) ∨
    (r = .budgetTooWide ∧ ∃ role n t, i = .openOp role n t ∧ 1 ≤ t ∧ (2 ^ s.cfg.attW ≤ n ∨ 2 ^ s.cfg.tmoW ≤ t)) ∨
    (r = .commandNotEnabled ∧ isHostOp i = true ∧
      (∀ role n t, i = .openOp role n t → 1 ≤ t ∧ n < 2 ^ s.cfg.attW ∧ t < 2 ^ s.cfg.tmoW) ∧ s.eng ≠ .idle ∧
      (i = .close → s.eng ≠ .sendWaitAck ∧ s.eng ≠ .recvWait)) ∨
    (r = .byteNotEnabled ∧ isHostOp i = false ∧ s.eng = .idle)) ∧
  (∀ (s : State) (r : Refusal), step s = .refused r →
    ∃ m rest, takeEvent s.eng false s.pending = some (.cmd m, rest) ∧ m.code = 0b00 ∧
      ((r = .timeoutZero ∧ m.timeout = 0) ∨
       (r = .budgetTooWide ∧ 1 ≤ m.timeout ∧ (2 ^ s.cfg.attW ≤ m.maxAttempts ∨ 2 ^ s.cfg.tmoW ≤ m.timeout))))

/-- R155, R198: from a state with the invariant nothing stops the engine, whatever is presented, as long as no `OPEN`
outside its domain, or too wide for the registers, is. -/
def Obligations.NothingStopsTheEngine : Prop :=
  ∀ s : State, EngineInv s →
    (∀ m, Event.cmd m ∈ s.pending → m.code = 0b00 →
      m.timeout ≠ 0 ∧ m.maxAttempts < 2 ^ s.cfg.attW ∧ m.timeout < 2 ^ s.cfg.tmoW) →
    ∃ t, step s = .next t

/-- R31, R175: the registers the spec gives a reset value have it in the reset state, and after the `Reset` event in
every state; the event emits nothing, an outstanding operation gets no result, and what waits in the transport and with
the host stays there. -/
def Obligations.ResetEventRestoresTheEngine : Prop :=
  let atReset (t : State) : Prop :=
    t.phase = .closed ∧ t.eng = .idle ∧ t.txSeq = 0 ∧ t.rxSeq = 0 ∧ t.attempts = 0 ∧ t.timerArmed = false ∧
    t.hold = [] ∧ t.dec.st = .idle ∧ t.dec.esc = false ∧ t.dec.buf = []
  atReset State.reset ∧
  ∀ (s : State) (rest : List Event), s.pending = .reset :: rest →
    ∃ t, step s = .next t ∧ atReset t ∧ t.out = s.out ∧ t.pending = rest ∧ t.cfg = s.cfg

/-- R176: in `Closed` and `Idle` only `OPEN` does anything: the other commands are answered `InvalidState`, bytes stay
in the transport (the engine waits as it is: assumption log 3), ticks pass. -/
def Obligations.WithNoSessionOnlyOpenActs : Prop :=
  ∀ s : State, s.phase = .closed → s.eng = .idle → s.timerArmed = false →
    (∀ i, (i = .receive ∨ i = .close ∨ ∃ p, i = .send p) →
      exec i s = .next { s with out := s.out ++ [.rsp .invalidState] }) ∧
    (∀ bytes : List Byte, s.pending = bytes.map Event.rxByte → step s = .next s) ∧
    tickStep s = .next s

/-- R22, R31, U4 to U7: no result depends on a register where the spec calls it unspecified. Two states that differ only in
those take the same step, with the same outputs, and go on so. -/
def Obligations.UnspecifiedRegistersAreNeverSeen : Prop :=
  ∀ s t : State, ControlLegal s → AgreeOnSpecified s t →
    (∀ s', step s = .next s' → ∃ t', step t = .next t' ∧ AgreeOnSpecified s' t') ∧
    (∀ r, step s = .refused r → step t = .refused r) ∧
    (∀ r, step s = .fault r → step t = .fault r)

/-- R160: the status outputs. -/
def Obligations.StatusOutputs : Prop :=
  ∀ s : State,
    (s.phase = .closed → statusPhase s = 0b00) ∧ (s.phase = .establishing → statusPhase s = 0b01) ∧
    (s.phase = .opened → statusPhase s = 0b10) ∧ (s.phase = .closing → statusPhase s = 0b11) ∧
    (busy s = true ↔ s.eng ≠ .idle)

/-- R157: the result codes; `0xA` to `0xF` are never produced. -/
def Obligations.ResultCodes : Prop :=
  (∀ (n : Nat) (p : List Byte),
    [Result.ok, .okSent n, .data p, .peerClosed, .transmitFailed, .connectionFailed, .closeFailed, .aborted,
      .invalidState, .payloadTooLarge].map Result.code = [0x0, 0x1, 0x2, 0x3, 0x4, 0x5, 0x6, 0x7, 0x8, 0x9]) ∧
  (∀ r : Result, r.code.toNat < 0xA)

/-- R165: which inputs present in one cycle are taken, and in which order: `Reset` alone if it is there, else every input
that is present and no other, the byte before the tick before the command. That this is a function of its own, which `step`
does not call, is the model's choice (assumption log 15). -/
def Obligations.SameCycleOrder : Prop :=
  ∀ (rx : Option Byte) (tick : Bool) (cmd : Option CmdMsg),
    arbitrate true rx tick cmd = [.reset] ∧
    (∀ e : Event, e ∈ arbitrate false rx tick cmd ↔
      (∃ b, rx = some b ∧ e = .rxByte b) ∨ (tick = true ∧ e = .tick) ∨ (∃ m, cmd = some m ∧ e = .cmd m)) ∧
    (∀ b m, arbitrate false (some b) true (some m) = [.rxByte b, .tick, .cmd m]) ∧
    (arbitrate false rx tick cmd).Sublist ((rx.map Event.rxByte).toList ++ [.tick] ++ (cmd.map Event.cmd).toList)

/-! ## Two stations -/

/-- R144, for every payload, number and role: a `SEND` at one station and a `RECEIVE` at the other, over a line that
loses nothing. The frame, the RR, the payload given, the result, and both numbers gone on together. -/
def Obligations.PayloadCrossesTheLink : Prop :=
  ∀ (A B : State) (p : List Byte),
    A.phase = .opened → A.eng = .idle → A.pending = [] → 1 ≤ A.maxAttempts →
    B.eng = .recvWait → B.pending = [] → B.rxSeq = A.txSeq →
    p.length ≤ A.cfg.maxPayload → p.length ≤ B.cfg.maxPayload →
    (A.dec.st = .idle ∨ A.dec.st = .flagSeen) → (B.dec.st = .idle ∨ B.dec.st = .flagSeen) →
    ∃ A1 A2 B1 f r,
      exec (.send p) A = .next A1 ∧ newOutputs A A1 = [.tx f] ∧
      runSteps f.length (B.deliver f) = .next B1 ∧ newOutputs B B1 = [.tx r, .rsp (.data p)] ∧
      runSteps r.length (A1.deliver r) = .next A2 ∧ newOutputs A1 A2 = [.rsp (.okSent f.length)] ∧
      A2.txSeq = ~~~A.txSeq ∧ B1.rxSeq = A2.txSeq ∧ A2.eng = .idle ∧ B1.eng = .idle ∧ A2.phase = .opened ∧
      B1.phase = B.phase

/-- R139, R57: a repeated frame is acknowledged again and not given twice. After a frame is accepted, the same bytes
taken by the next `RECEIVE` draw the same RR and no result. -/
def Obligations.RepeatedFrameIsDeliveredOnce : Prop :=
  ∀ (B : State) (p : List Byte) (a : Byte) (c : Byte),
    B.phase = .opened → B.eng = .recvWait → B.pending = [] → p.length ≤ B.cfg.maxPayload →
    (B.dec.st = .idle ∨ B.dec.st = .flagSeen) → isAddress a = true → c = ctrlI B.rxSeq →
    ∃ B1 B2 B3 r,
      runSteps (encodeI a c p).length (B.deliver (encodeI a c p)) = .next B1 ∧
      newOutputs B B1 = [.tx r, .rsp (.data p)] ∧
      exec .receive B1 = .next B2 ∧
      runSteps (encodeI a c p).length (B2.deliver (encodeI a c p)) = .next B3 ∧
      newOutputs B2 B3 = [.tx r] ∧ B3.eng = .recvWait ∧ B3.rxSeq = B1.rxSeq

/-- R118 to R121: the open handshake over a line that loses nothing, for every budget with at least one attempt
that fits the registers. -/
def Obligations.OpenHandshakeOpensBothStations : Prop :=
  ∀ (A B : State) (n t m u : Nat),
    A.phase = .closed → A.eng = .idle → A.pending = [] → B.phase = .closed → B.eng = .idle → B.pending = [] →
    1 ≤ n → 1 ≤ t → 1 ≤ u →
    n < 2 ^ A.cfg.attW → t < 2 ^ A.cfg.tmoW → m < 2 ^ B.cfg.attW → u < 2 ^ B.cfg.tmoW →
    ∃ A1 A2 B1 B2,
      exec (.openOp .responder m u) B = .next B1 ∧ newOutputs B B1 = [] ∧
      exec (.openOp .initiator n t) A = .next A1 ∧ newOutputs A A1 = [.tx [0x7E, 0x03, 0x03, 0x00, 0x7E]] ∧
      runSteps 5 (B1.deliver [0x7E, 0x03, 0x03, 0x00, 0x7E]) = .next B2 ∧
      newOutputs B1 B2 = [.tx [0x7E, 0x03, 0x07, 0x04, 0x7E], .rsp .ok] ∧
      runSteps 5 (A1.deliver [0x7E, 0x03, 0x07, 0x04, 0x7E]) = .next A2 ∧ newOutputs A1 A2 = [.rsp .ok] ∧
      A2.phase = .opened ∧ A2.eng = .idle ∧ B2.phase = .opened ∧ B2.eng = .idle ∧
      A2.txSeq = B2.rxSeq ∧ B2.txSeq = A2.rxSeq

/-- R122 to R127: the close handshake over a line that loses nothing: both stations reach `Closed` with `Ok`. -/
def Obligations.CloseHandshakeClosesBothStations : Prop :=
  ∀ A B : State,
    A.phase = .opened → A.eng = .idle → A.role = .initiator → A.pending = [] → 1 ≤ A.maxAttempts →
    B.phase = .opened → B.eng = .idle → B.role = .responder → B.pending = [] →
    (A.dec.st = .idle ∨ A.dec.st = .flagSeen) → (B.dec.st = .idle ∨ B.dec.st = .flagSeen) →
    ∃ A1 A2 B1 B2 B3,
      exec .close B = .next B1 ∧ newOutputs B B1 = [] ∧
      exec .close A = .next A1 ∧ newOutputs A A1 = [.tx [0x7E, 0x03, 0x0B, 0x08, 0x7E]] ∧
      runSteps 5 (B1.deliver [0x7E, 0x03, 0x0B, 0x08, 0x7E]) = .next B2 ∧
      newOutputs B1 B2 = [.tx [0x7E, 0x01, 0x0B, 0x0A, 0x7E]] ∧
      runSteps 5 (A1.deliver [0x7E, 0x01, 0x0B, 0x0A, 0x7E]) = .next A2 ∧
      newOutputs A1 A2 = [.tx [0x7E, 0x01, 0x07, 0x06, 0x7E], .rsp .ok] ∧
      runSteps 5 (B2.deliver [0x7E, 0x01, 0x07, 0x06, 0x7E]) = .next B3 ∧ newOutputs B2 B3 = [.rsp .ok] ∧
      A2.phase = .closed ∧ A2.eng = .idle ∧ B3.phase = .closed ∧ B3.eng = .idle
end

