-- ==== Sys2Proof/Laws/Codec.lean ====
section
/-! SUPPORT. Small lemmas of the pure functions: stuffing, checksums, operand forms, the marker split. -/

namespace Sys2Proof

/-! Bits. -/

theorem bit_cases (b : Bit) : b = 0 ∨ b = 1 := by revert b; decide

theorem bit_eq_or_eq_not (n s : Bit) : n = s ∨ n = ~~~s := by revert n s; decide

@[simp] theorem bit_not_ne_self (s : Bit) : ~~~s ≠ s := by revert s; decide

@[simp] theorem bit_self_ne_not (s : Bit) : s ≠ ~~~s := by revert s; decide

/-! Bytes. -/

theorem flag_eq : flag = 0x7E := rfl

theorem esc_eq : esc = 0x7D := rfl

theorem escMask_eq : escMask = 0x20 := rfl

@[simp] theorem flag_ne_esc : flag ≠ esc := by decide

@[simp] theorem esc_ne_flag : esc ≠ flag := by decide

@[simp] theorem escMask_twice (b : Byte) : b ^^^ escMask ^^^ escMask = b := by
  rw [BitVec.xor_assoc, BitVec.xor_self, BitVec.xor_zero]

/-- The two bytes of the protected region that are escaped (R76). -/
abbrev Reserved (b : Byte) : Prop := b = flag ∨ b = esc

theorem isAddress_iff (b : Byte) : isAddress b = true ↔ b = 0x03 ∨ b = 0x01 := by
  simp [isAddress, addrCmdI, addrCmdR]

/-! Stuffing. -/

@[simp] theorem stuff_nil : stuff [] = [] := rfl

theorem stuff_cons_reserved {b : Byte} (h : Reserved b) (t : List Byte) :
    stuff (b :: t) = esc :: (b ^^^ escMask) :: stuff t := if_pos h

theorem stuff_cons_plain {b : Byte} (h : ¬ Reserved b) (t : List Byte) : stuff (b :: t) = b :: stuff t := if_neg h

/-- What an escaped byte is on the line (R76). -/
theorem reserved_escaped {b : Byte} (h : Reserved b) : b ^^^ escMask = 0x5E ∨ b ^^^ escMask = 0x5D := by
  rcases h with rfl | rfl <;> decide

@[simp] theorem destuff_nil : destuff [] = some [] := rfl

theorem destuff_single (b : Byte) : destuff [b] = if b = esc then none else some [b] := rfl

@[simp] theorem destuff_esc_cons (x : Byte) (u : List Byte) :
    destuff (esc :: x :: u) = (destuff u).map ((x ^^^ escMask) :: ·) := rfl

theorem destuff_cons_plain {b : Byte} (h : b ≠ esc) (t : List Byte) : destuff (b :: t) = (destuff t).map (b :: ·) := by
  cases t <;> simp [destuff, h]

/-! Checksums. -/

@[simp] theorem xorFold_nil : xorFold [] = 0 := rfl

@[simp] theorem xorFold_cons (b : Byte) (t : List Byte) : xorFold (b :: t) = b ^^^ xorFold t := rfl

theorem xorFold_append (s t : List Byte) : xorFold (s ++ t) = xorFold s ^^^ xorFold t := by
  induction s with
  | nil => simp
  | cons b s ih => simp [ih, BitVec.xor_assoc]

theorem bcc1_self_iff (a c x : Byte) : headerOk a c x = true ↔ x = a ^^^ c := by simp [headerOk, bcc1]

/-! Control bytes. -/

theorem classify_byte (k : ControlField) : classify k.byte = some k := by
  cases k with
  | set | ua | disc => rfl
  | rr n => rcases bit_cases n with rfl | rfl <;> decide
  | rej n => rcases bit_cases n with rfl | rfl <;> decide
  | info n => rcases bit_cases n with rfl | rfl <;> decide

/-- R66: a recognised control byte is the byte of its kind. -/
theorem classify_some {c : Byte} {k : ControlField} (h : classify c = some k) : c = k.byte := by
  revert h; unfold classify
  repeat' split
  all_goals (intro h; simp at h; try (subst h; assumption))

theorem isSup_or_isInf {c : Byte} (h : (classify c).isSome = true) : isSup c = true ∨ isInf c = true := by
  obtain ⟨k, hk⟩ := Option.isSome_iff_exists.1 h
  cases hi : k.isInfo <;> simp [isSup, isInf, hk, hi]

theorem not_isInf_of_isSup {c : Byte} (h : isSup c = true) : isInf c = false := by
  unfold isSup at h
  unfold isInf
  split at h <;> simp_all

/-! Symbols. -/

/-- R108: after an escape byte any byte but the marker is a symbol that stands for it XOR `0x20`. -/
theorem symbolValue_symbolAfterEscape (x : Byte) : symbolValue (symbolAfterEscape x) = x ^^^ escMask := by
  unfold symbolAfterEscape
  split
  · subst_vars; rfl
  · split
    · subst_vars; rfl
    · rfl

/-! The end of a frame. -/

@[simp] theorem splitMarker_marker (t : List Byte) : splitMarker (flag :: t) = some ([], t) := rfl

theorem splitMarker_append {t : List Byte} (h : flag ∉ t) (rest : List Byte) :
    splitMarker (t ++ flag :: rest) = some (t, rest) := by
  induction t with
  | nil => rfl
  | cons b t ih =>
    obtain ⟨hb, ht⟩ : flag ≠ b ∧ flag ∉ t := by simpa using h
    simp [splitMarker, Ne.symm hb, ih ht]

theorem splitMarker_some {bs t rest : List Byte} (h : splitMarker bs = some (t, rest)) :
    bs = t ++ flag :: rest ∧ flag ∉ t := by
  induction bs generalizing t with
  | nil => simp [splitMarker] at h
  | cons b bs ih =>
    unfold splitMarker at h
    split at h
    · simp at h; obtain ⟨rfl, rfl⟩ := h; simp [*]
    · rename_i hb
      obtain ⟨⟨t', r'⟩, h1, h2⟩ := Option.map_eq_some_iff.1 h
      simp at h2
      obtain ⟨rfl, rfl⟩ := h2
      obtain ⟨rfl, hn⟩ := ih h1
      exact ⟨rfl, by simpa using ⟨Ne.symm hb, hn⟩⟩

/-! Roles. -/

@[simp] theorem roleOfBit_bitOfRole (r : Role) : roleOfBit (bitOfRole r) = r := by cases r <;> rfl

end Sys2Proof
end

