-- ==== Sys2Proof/Laws/Ops.lean ====
section
/-! SUPPORT. What the shared operations do: the choice of the next event, the buffer accesses, and that the buffers
stay within their capacities. -/

namespace Sys2Proof.Machine

/-! Registers. -/

/-- R8, U14. -/
@[simp] theorem budgetFits_iff (cfg : Config) (n t : Nat) :
    budgetFits cfg n t = true ↔ n < 2 ^ cfg.attW ∧ t < 2 ^ cfg.tmoW := by simp [budgetFits]

/-- The least budget that transmits fits every engine. -/
theorem budgetFits_unfixed : budgetFits Config.unfixed 1 1 = true := by
  have h (w : Nat) : 1 < 2 ^ (w + 1) := Nat.one_lt_two_pow (by omega)
  exact (budgetFits_iff _ _ _).2 ⟨h _, h _⟩

/-! Events. -/

/-- An enabled event at the front is the one taken (R7). -/
theorem takeEvent_head {e : Eng} {ev : Event} (h : enabled e ev = true) (rest : List Event) :
    takeEvent e false (ev :: rest) = some (ev, rest) := by simp [takeEvent, h]

/-- An event that is not enabled is passed over and held (R7). -/
theorem takeEvent_held {e : Eng} {ev : Event} (h : enabled e ev = false) (cmdHeld : Bool) (rest : List Event) :
    takeEvent e cmdHeld (ev :: rest) = (takeEvent e (cmdHeld || ev.isCmd) rest).map (fun r => (r.1, ev :: r.2)) := by
  simp [takeEvent, h]

/-- R7: the event taken is enabled, and the others are what the environment presented, in the same order. -/
theorem takeEvent_some {e : Eng} {cmdHeld : Bool} {l rest : List Event} {ev : Event}
    (h : takeEvent e cmdHeld l = some (ev, rest)) :
    enabled e ev = true ∧ ∃ l1 l2, l = l1 ++ ev :: l2 ∧ rest = l1 ++ l2 := by
  induction l generalizing cmdHeld rest with
  | nil => simp [takeEvent] at h
  | cons x l ih =>
    unfold takeEvent at h
    split at h
    · rename_i hx
      simp at h hx
      obtain ⟨rfl, rfl⟩ := h
      exact ⟨hx.1, [], l, rfl, rfl⟩
    · obtain ⟨⟨ev', r⟩, h1, h2⟩ := Option.map_eq_some_iff.1 h
      simp at h2
      obtain ⟨rfl, rfl⟩ := h2
      obtain ⟨he, l1, l2, rfl, rfl⟩ := ih h1
      exact ⟨he, x :: l1, l2, rfl, rfl⟩

/-- R7: with nothing enabled among those presented no event is taken. -/
theorem takeEvent_none_of_disabled {e : Eng} {cmdHeld : Bool} {l : List Event}
    (h : ∀ ev ∈ l, enabled e ev = false) : takeEvent e cmdHeld l = none := by
  induction l generalizing cmdHeld with
  | nil => rfl
  | cons x l ih =>
    rw [takeEvent_held (h x (by simp)), ih (fun ev hev => h ev (by simp [hev]))]
    rfl

/-- R7: which commands are enabled. -/
theorem enabled_cmd (e : Eng) (m : CmdMsg) :
    enabled e (.cmd m) = true ↔ e = .idle ∨ (m.code = 0b11 ∧ (e = .sendWaitAck ∨ e = .recvWait)) := by
  simp [enabled, Eng.abortable]

/-- R7: bytes are enabled while an operation waits. -/
theorem enabled_rxByte (e : Eng) (b : Byte) : enabled e (.rxByte b) = true ↔ e ≠ .idle := by simp [enabled]

/-! Buffers. -/

/-- The write at the length appends (spec/00_scope.md section 5.2). -/
@[simp] theorem memWrite_length (buf : List Byte) (v : Byte) : memWrite buf buf.length v = buf ++ [v] := by
  simp [memWrite]

/-- Assumption log 12: past the index that appends, a write changes nothing. -/
theorem memWrite_past {buf : List Byte} {i : Nat} (v : Byte) (h : buf.length < i) : memWrite buf i v = buf := by
  rw [memWrite, if_neg (by omega), List.set_eq_of_length_le (by omega)]

@[simp] theorem memRead_memWrite_append (buf : List Byte) (v : Byte) :
    memRead (memWrite buf buf.length v) buf.length = v := by simp [memRead]

theorem memRead_memWrite_ne (buf : List Byte) {i j : Nat} (v : Byte) (h : i ≠ j) (hj : j < buf.length) :
    memRead (memWrite buf i v) j = memRead buf j := by
  unfold memRead memWrite
  split
  · simp [List.getD_eq_getElem?_getD, List.getElem?_append_left hj]
  · simp [List.getD_eq_getElem?_getD, List.getElem?_set_ne h]

/-! Capacities (R43, R44). -/

theorem Memory.wf_iff (s : State) : Memory.wf s = true ↔
    s.hold.length ≤ 2 * s.cfg.maxPayload + 7 ∧ s.dec.buf.length ≤ s.cfg.maxPayload + 1 := by
  simp only [Memory.wf, Bool.and_eq_true, decide_eq_true_eq]
  rfl

theorem Memory.reset_wf : Memory.wf State.reset = true := by simp [Memory.wf_iff, State.reset, Decoder.reset]

/-- R77 (a), the upper bound. -/
theorem stuff_length_le (s : List Byte) : (stuff s).length ≤ 2 * s.length := by
  induction s with
  | nil => simp
  | cons b t ih =>
    by_cases h : Reserved b
    · rw [stuff_cons_reserved h]; simp; omega
    · rw [stuff_cons_plain h]; simp; omega

theorem encodeS_length (a c : Byte) : (encodeS a c).length = 5 := rfl

/-- R43: an Information frame fits `S.hold`. -/
theorem encodeI_length_le (a c : Byte) (p : List Byte) : (encodeI a c p).length ≤ 2 * p.length + 7 := by
  have h := stuff_length_le (p ++ [xorFold p])
  simp [encodeI, frameI] at h ⊢
  omega

/-- Writing a supervisory frame to `S.hold` keeps the capacities. -/
theorem Memory.wf_hold_encodeS {s : State} (h : Memory.wf s = true) (a c : Byte) :
    Memory.wf { s with hold := encodeS a c } = true := by
  rw [Memory.wf_iff] at *
  exact ⟨by simp [encodeS_length], h.2⟩

/-- Writing an Information frame of a payload that `SEND` accepts to `S.hold` keeps the capacities. -/
theorem Memory.wf_hold_encodeI {s : State} (h : Memory.wf s = true) (a c : Byte) {p : List Byte}
    (hp : p.length ≤ s.cfg.maxPayload) : Memory.wf { s with hold := encodeI a c p } = true := by
  rw [Memory.wf_iff] at *
  have := encodeI_length_le a c p
  exact ⟨by simp; omega, h.2⟩

end Sys2Proof.Machine
end

