-- ==== Sys2Proof/Laws/Decoder.lean ====
section
/-! SUPPORT. What the decoder does: one lemma per state, `Accumulate`, feeding. -/

namespace Sys2Proof.Machine

variable {maxPayload : Nat}

/-! `Accumulate` (R109). -/

theorem accumulate_full {d : Decoder} (h : d.buf.length = maxPayload + 1) (v : Byte) :
    accumulate maxPayload v d = ({ d with st := .idle, esc := false, buf := [] }, .framingError) := if_pos h

theorem accumulate_room {d : Decoder} (h : d.buf.length ≠ maxPayload + 1) (v : Byte) :
    accumulate maxPayload v d = ({ d with buf := d.buf ++ [v] }, .needMore) := by simp [accumulate, h]

/-- The buffer stays within its capacity (R44). -/
theorem accumulate_capacity {d : Decoder} (h : d.buf.length ≤ maxPayload + 1) (v : Byte) :
    (accumulate maxPayload v d).1.buf.length ≤ maxPayload + 1 := by
  by_cases hf : d.buf.length = maxPayload + 1
  · simp [accumulate_full hf]
  · simp [accumulate_room hf]; omega

/-! One byte inside a protected region (R107, R108, R110). -/

/-- R107: the escape byte is not stored. -/
theorem decodeByte_esc {d : Decoder} (hs : d.st = .inPayload) (he : d.esc = false) :
    decodeByte maxPayload esc d = ({ d with esc := true }, .needMore) := by
  simp [decodeByte, scanByte, scanInPayload, hs, he]

/-- R107: a byte that stands for itself. -/
theorem decodeByte_plain {d : Decoder} {b : Byte} (hs : d.st = .inPayload) (he : d.esc = false) (hf : b ≠ flag)
    (hb : b ≠ esc) : decodeByte maxPayload b d = accumulate maxPayload b d := by
  simp [decodeByte, scanByte, scanInPayload, hs, he, hf, hb, symbolValue]

/-- R108: the byte after an escape byte. -/
theorem decodeByte_escaped {d : Decoder} {b : Byte} (hs : d.st = .inPayload) (he : d.esc = true) (hf : b ≠ flag) :
    decodeByte maxPayload b d = accumulate maxPayload (b ^^^ escMask) { d with esc := false } := by
  simp [decodeByte, scanByte, scanInPayload, hs, he, hf, symbolValue_symbolAfterEscape]

/-- R108: an escape byte followed by the marker. -/
theorem decodeByte_escaped_marker {d : Decoder} (hs : d.st = .inPayload) (he : d.esc = true) :
    decodeByte maxPayload flag d = ({ d with st := .idle, esc := false, buf := [] }, .framingError) := by
  simp [decodeByte, scanByte, scanInPayload, hs, he]

/-- R110: the closing marker of an Information frame that has its checksum. -/
theorem scanByte_close {d : Decoder} {p : List Byte} {x : Byte} (hs : d.st = .inPayload) (he : d.esc = false)
    (hb : d.buf = p ++ [x]) :
    scanByte flag d = .frame d.addr d.ctrl p x { d with st := .idle, buf := [] } := by
  simp [scanByte, scanInPayload, hs, he, closeI, hb, memRead]

theorem decodeByte_close {d : Decoder} {p : List Byte} {x : Byte} (hs : d.st = .inPayload) (he : d.esc = false)
    (hb : d.buf = p ++ [x]) :
    decodeByte maxPayload flag d =
      ({ d with st := .idle, buf := [] }, .frame d.addr d.ctrl p (xorFold p == x)) := by
  simp [decodeByte, scanByte_close hs he hb]

/-- R110: the closing marker of an Information frame without a checksum. -/
theorem decodeByte_close_empty {d : Decoder} (hs : d.st = .inPayload) (he : d.esc = false) (hb : d.buf = []) :
    decodeByte maxPayload flag d = ({ d with st := .idle }, .framingError) := by
  simp [decodeByte, scanByte, scanInPayload, hs, he, closeI, hb]

/-! What a byte completes. -/

/-- R107, R108: a byte completes a symbol only inside a protected region, and only one of the three kinds. -/
theorem scanByte_symbol {b : Byte} {d d' : Decoder} {i : Instr} (h : scanByte b d = .symbol i d') :
    d.st = .inPayload ∧ d'.st = .inPayload ∧ d'.esc = false ∧ d' = { d with esc := false } ∧
    (i = .escFlag ∨ i = .escEsc ∨ ∃ v, i = .literal v ∧ v ≠ flag ∧ v ≠ Sys2Proof.esc) := by
  obtain ⟨st, addr, ctrl, es, buf⟩ := d
  cases st with
  | inPayload =>
    simp only [scanByte, scanInPayload] at h
    split at h
    · split at h <;> cases h
      rename_i hb
      refine ⟨rfl, rfl, rfl, rfl, ?_⟩
      unfold symbolAfterEscape
      split
      · simp
      · split
        · simp
        · rename_i h1 h2
          refine .inr (.inr ⟨_, rfl, ?_, ?_⟩)
          · intro h; apply h1; rw [← h]; simp
          · intro h; apply h2; rw [← h]; simp
    · rename_i hes
      simp at hes; subst hes
      split at h
      · unfold closeI at h; dsimp at h; split at h <;> cases h
      · split at h <;> cases h
        refine ⟨rfl, rfl, rfl, rfl, .inr (.inr ⟨b, rfl, ‹_›, ‹_›⟩)⟩
  | _ => 
    simp [scanByte, scanIdle, scanFlagSeen, scanAddressSeen, scanControlSeen, scanAwaitEndS] at h <;> (repeat' split at h) <;> cases h

/-- R106, R110: a byte completes a frame only if it is the marker, and the frame is what the registers hold. -/
theorem scanByte_frame {b a c x : Byte} {p : List Byte} {d d' : Decoder} (h : scanByte b d = .frame a c p x d') :
    b = flag ∧ a = d.addr ∧ c = d.ctrl ∧
    ((d.st = .awaitEndS ∧ p = [] ∧ x = 0 ∧ d' = { d with st := .idle }) ∨
     (d.st = .inPayload ∧ d.esc = false ∧ d.buf = p ++ [x] ∧ d' = { d with st := .idle, buf := [] })) := by
  obtain ⟨st, addr, ctrl, es, buf⟩ := d
  cases st with
  | inPayload =>
    simp only [scanByte, scanInPayload] at h
    split at h
    · split at h <;> cases h
    · rename_i hes
      simp at hes; subst hes
      split at h
      · rename_i hb; subst hb
        rcases List.eq_nil_or_concat buf with rfl | ⟨q, y, rfl⟩
        · simp [closeI] at h
        · simp [closeI, memRead] at h
          obtain ⟨rfl, rfl, rfl, rfl, rfl⟩ := h
          simp
      · split at h <;> cases h
  | awaitEndS => 
    simp [scanByte, scanAwaitEndS] at h; split at h <;> simp at h
    obtain ⟨rfl, rfl, rfl, rfl, rfl⟩ := h; simp [*]
  | _ => 
    simp [scanByte, scanIdle, scanFlagSeen, scanAddressSeen, scanControlSeen] at h <;> (repeat' split at h) <;> cases h

/-! Feeding. -/

@[simp] theorem feed_nil (d : Decoder) : feed maxPayload [] d = d := rfl

@[simp] theorem feed_cons (b : Byte) (bs : List Byte) (d : Decoder) :
    feed maxPayload (b :: bs) d = feed maxPayload bs (decodeByte maxPayload b d).1 := rfl

theorem feed_append (s t : List Byte) (d : Decoder) :
    feed maxPayload (s ++ t) d = feed maxPayload t (feed maxPayload s d) := by
  induction s generalizing d with
  | nil => rfl
  | cons b s ih => simp [ih]

@[simp] theorem feedResults_nil (d : Decoder) : feedResults maxPayload [] d = [] := rfl

@[simp] theorem feedResults_cons (b : Byte) (bs : List Byte) (d : Decoder) :
    feedResults maxPayload (b :: bs) d =
      (decodeByte maxPayload b d).2 :: feedResults maxPayload bs (decodeByte maxPayload b d).1 := rfl

theorem feedResults_append (s t : List Byte) (d : Decoder) :
    feedResults maxPayload (s ++ t) d = feedResults maxPayload s d ++ feedResults maxPayload t (feed maxPayload s d) := by
  induction s generalizing d with
  | nil => rfl
  | cons b s ih => simp [ih]

theorem feedResults_length (bs : List Byte) (d : Decoder) : (feedResults maxPayload bs d).length = bs.length := by
  induction bs generalizing d with
  | nil => rfl
  | cons b bs ih => simp [ih]

/-! Symbols. -/

/-- What a symbol's bytes do to the state (R7, R101): the decoder changes and nothing else. -/
theorem takeSymbol_next {bytes : List Byte} {s t : State} (h : takeSymbol bytes s = .next t) :
    s.eng ≠ .idle ∧ t = { s with dec := feed s.cfg.maxPayload bytes s.dec } := by
  unfold takeSymbol at h
  split at h
  · cases h
  · cases h; exact ⟨‹_›, rfl⟩

theorem takeSymbol_waiting {s : State} (h : s.eng ≠ .idle) (bytes : List Byte) :
    takeSymbol bytes s = .next { s with dec := feed s.cfg.maxPayload bytes s.dec } := if_neg h

end Sys2Proof.Machine
end

