-- ==== Sys2Proof/Laws/State.lean ====
section
/-! SUPPORT. One lemma per field per update of State, so that no proof unfolds a record update. -/

namespace Sys2Proof.Machine

section emitTx
variable (bytes : List Byte) (s : State)

@[simp] theorem emitTx_phase : (emitTx bytes s).phase = s.phase := rfl
@[simp] theorem emitTx_eng : (emitTx bytes s).eng = s.eng := rfl
@[simp] theorem emitTx_role : (emitTx bytes s).role = s.role := rfl
@[simp] theorem emitTx_maxAttempts : (emitTx bytes s).maxAttempts = s.maxAttempts := rfl
@[simp] theorem emitTx_timeout : (emitTx bytes s).timeout = s.timeout := rfl
@[simp] theorem emitTx_txSeq : (emitTx bytes s).txSeq = s.txSeq := rfl
@[simp] theorem emitTx_rxSeq : (emitTx bytes s).rxSeq = s.rxSeq := rfl
@[simp] theorem emitTx_attempts : (emitTx bytes s).attempts = s.attempts := rfl
@[simp] theorem emitTx_timerArmed : (emitTx bytes s).timerArmed = s.timerArmed := rfl
@[simp] theorem emitTx_timerCnt : (emitTx bytes s).timerCnt = s.timerCnt := rfl
@[simp] theorem emitTx_hold : (emitTx bytes s).hold = s.hold := rfl
@[simp] theorem emitTx_dec : (emitTx bytes s).dec = s.dec := rfl
@[simp] theorem emitTx_cfg : (emitTx bytes s).cfg = s.cfg := rfl
@[simp] theorem emitTx_pending : (emitTx bytes s).pending = s.pending := rfl
@[simp] theorem emitTx_out : (emitTx bytes s).out = s.out ++ [.tx bytes] := rfl

end emitTx

section respond
variable (r : Result) (s : State)

@[simp] theorem respond_phase : (respond r s).phase = s.phase := rfl
@[simp] theorem respond_eng : (respond r s).eng = s.eng := rfl
@[simp] theorem respond_role : (respond r s).role = s.role := rfl
@[simp] theorem respond_maxAttempts : (respond r s).maxAttempts = s.maxAttempts := rfl
@[simp] theorem respond_timeout : (respond r s).timeout = s.timeout := rfl
@[simp] theorem respond_txSeq : (respond r s).txSeq = s.txSeq := rfl
@[simp] theorem respond_rxSeq : (respond r s).rxSeq = s.rxSeq := rfl
@[simp] theorem respond_attempts : (respond r s).attempts = s.attempts := rfl
@[simp] theorem respond_timerArmed : (respond r s).timerArmed = s.timerArmed := rfl
@[simp] theorem respond_timerCnt : (respond r s).timerCnt = s.timerCnt := rfl
@[simp] theorem respond_hold : (respond r s).hold = s.hold := rfl
@[simp] theorem respond_dec : (respond r s).dec = s.dec := rfl
@[simp] theorem respond_cfg : (respond r s).cfg = s.cfg := rfl
@[simp] theorem respond_pending : (respond r s).pending = s.pending := rfl
@[simp] theorem respond_out : (respond r s).out = s.out ++ [.rsp r] := rfl

end respond

section complete
variable (r : Result) (s : State)

@[simp] theorem complete_phase : (complete r s).phase = s.phase := rfl
@[simp] theorem complete_eng : (complete r s).eng = .idle := rfl
@[simp] theorem complete_role : (complete r s).role = s.role := rfl
@[simp] theorem complete_maxAttempts : (complete r s).maxAttempts = s.maxAttempts := rfl
@[simp] theorem complete_timeout : (complete r s).timeout = s.timeout := rfl
@[simp] theorem complete_txSeq : (complete r s).txSeq = s.txSeq := rfl
@[simp] theorem complete_rxSeq : (complete r s).rxSeq = s.rxSeq := rfl
@[simp] theorem complete_attempts : (complete r s).attempts = s.attempts := rfl
@[simp] theorem complete_timerArmed : (complete r s).timerArmed = s.timerArmed := rfl
@[simp] theorem complete_timerCnt : (complete r s).timerCnt = s.timerCnt := rfl
@[simp] theorem complete_hold : (complete r s).hold = s.hold := rfl
@[simp] theorem complete_dec : (complete r s).dec = s.dec := rfl
@[simp] theorem complete_cfg : (complete r s).cfg = s.cfg := rfl
@[simp] theorem complete_pending : (complete r s).pending = s.pending := rfl
@[simp] theorem complete_out : (complete r s).out = s.out ++ [.rsp r] := rfl

end complete

section disarm
variable (s : State)

@[simp] theorem disarm_phase : (disarm s).phase = s.phase := rfl
@[simp] theorem disarm_eng : (disarm s).eng = s.eng := rfl
@[simp] theorem disarm_role : (disarm s).role = s.role := rfl
@[simp] theorem disarm_maxAttempts : (disarm s).maxAttempts = s.maxAttempts := rfl
@[simp] theorem disarm_timeout : (disarm s).timeout = s.timeout := rfl
@[simp] theorem disarm_txSeq : (disarm s).txSeq = s.txSeq := rfl
@[simp] theorem disarm_rxSeq : (disarm s).rxSeq = s.rxSeq := rfl
@[simp] theorem disarm_attempts : (disarm s).attempts = s.attempts := rfl
@[simp] theorem disarm_timerArmed : (disarm s).timerArmed = false := rfl
@[simp] theorem disarm_timerCnt : (disarm s).timerCnt = s.timerCnt := rfl
@[simp] theorem disarm_hold : (disarm s).hold = s.hold := rfl
@[simp] theorem disarm_dec : (disarm s).dec = s.dec := rfl
@[simp] theorem disarm_cfg : (disarm s).cfg = s.cfg := rfl
@[simp] theorem disarm_pending : (disarm s).pending = s.pending := rfl
@[simp] theorem disarm_out : (disarm s).out = s.out := rfl

end disarm

section transmit
variable (s : State)

@[simp] theorem transmit_phase : (transmit s).phase = s.phase := rfl
@[simp] theorem transmit_eng : (transmit s).eng = s.eng := rfl
@[simp] theorem transmit_role : (transmit s).role = s.role := rfl
@[simp] theorem transmit_maxAttempts : (transmit s).maxAttempts = s.maxAttempts := rfl
@[simp] theorem transmit_timeout : (transmit s).timeout = s.timeout := rfl
@[simp] theorem transmit_txSeq : (transmit s).txSeq = s.txSeq := rfl
@[simp] theorem transmit_rxSeq : (transmit s).rxSeq = s.rxSeq := rfl
@[simp] theorem transmit_attempts : (transmit s).attempts = s.attempts + 1 := rfl
@[simp] theorem transmit_timerArmed : (transmit s).timerArmed = true := rfl
@[simp] theorem transmit_timerCnt : (transmit s).timerCnt = s.timeout := rfl
@[simp] theorem transmit_hold : (transmit s).hold = s.hold := rfl
@[simp] theorem transmit_dec : (transmit s).dec = s.dec := rfl
@[simp] theorem transmit_cfg : (transmit s).cfg = s.cfg := rfl
@[simp] theorem transmit_pending : (transmit s).pending = s.pending := rfl
@[simp] theorem transmit_out : (transmit s).out = s.out ++ [.tx s.hold] := rfl

end transmit

section openSession
variable (role : Role) (n t : Nat) (s : State)

@[simp] theorem openSession_phase : (openSession role n t s).phase = .establishing := rfl
@[simp] theorem openSession_eng : (openSession role n t s).eng = s.eng := rfl
@[simp] theorem openSession_role : (openSession role n t s).role = role := rfl
@[simp] theorem openSession_maxAttempts : (openSession role n t s).maxAttempts = n := rfl
@[simp] theorem openSession_timeout : (openSession role n t s).timeout = t := rfl
@[simp] theorem openSession_txSeq : (openSession role n t s).txSeq = 0 := rfl
@[simp] theorem openSession_rxSeq : (openSession role n t s).rxSeq = 0 := rfl
@[simp] theorem openSession_attempts : (openSession role n t s).attempts = 0 := rfl
@[simp] theorem openSession_timerArmed : (openSession role n t s).timerArmed = false := rfl
@[simp] theorem openSession_timerCnt : (openSession role n t s).timerCnt = s.timerCnt := rfl
@[simp] theorem openSession_hold : (openSession role n t s).hold = s.hold := rfl
@[simp] theorem openSession_dec : (openSession role n t s).dec = { s.dec with st := .idle, esc := false, buf := [] } := rfl
@[simp] theorem openSession_cfg : (openSession role n t s).cfg = s.cfg := rfl
@[simp] theorem openSession_pending : (openSession role n t s).pending = s.pending := rfl
@[simp] theorem openSession_out : (openSession role n t s).out = s.out := rfl

end openSession

section acknowledged
variable (s : State)

@[simp] theorem acknowledged_phase : (acknowledged s).phase = s.phase := rfl
@[simp] theorem acknowledged_eng : (acknowledged s).eng = .idle := rfl
@[simp] theorem acknowledged_role : (acknowledged s).role = s.role := rfl
@[simp] theorem acknowledged_maxAttempts : (acknowledged s).maxAttempts = s.maxAttempts := rfl
@[simp] theorem acknowledged_timeout : (acknowledged s).timeout = s.timeout := rfl
@[simp] theorem acknowledged_txSeq : (acknowledged s).txSeq = ~~~s.txSeq := rfl
@[simp] theorem acknowledged_rxSeq : (acknowledged s).rxSeq = s.rxSeq := rfl
@[simp] theorem acknowledged_attempts : (acknowledged s).attempts = s.attempts := rfl
@[simp] theorem acknowledged_timerArmed : (acknowledged s).timerArmed = false := rfl
@[simp] theorem acknowledged_timerCnt : (acknowledged s).timerCnt = s.timerCnt := rfl
@[simp] theorem acknowledged_hold : (acknowledged s).hold = s.hold := rfl
@[simp] theorem acknowledged_dec : (acknowledged s).dec = s.dec := rfl
@[simp] theorem acknowledged_cfg : (acknowledged s).cfg = s.cfg := rfl
@[simp] theorem acknowledged_pending : (acknowledged s).pending = s.pending := rfl
@[simp] theorem acknowledged_out : (acknowledged s).out = s.out ++ [.rsp (.okSent s.hold.length)] := rfl

end acknowledged

section resetStep
variable (s : State)

@[simp] theorem resetStep_phase : (resetStep s).phase = State.reset.phase := rfl
@[simp] theorem resetStep_eng : (resetStep s).eng = State.reset.eng := rfl
@[simp] theorem resetStep_role : (resetStep s).role = State.reset.role := rfl
@[simp] theorem resetStep_maxAttempts : (resetStep s).maxAttempts = State.reset.maxAttempts := rfl
@[simp] theorem resetStep_timeout : (resetStep s).timeout = State.reset.timeout := rfl
@[simp] theorem resetStep_txSeq : (resetStep s).txSeq = State.reset.txSeq := rfl
@[simp] theorem resetStep_rxSeq : (resetStep s).rxSeq = State.reset.rxSeq := rfl
@[simp] theorem resetStep_attempts : (resetStep s).attempts = State.reset.attempts := rfl
@[simp] theorem resetStep_timerArmed : (resetStep s).timerArmed = State.reset.timerArmed := rfl
@[simp] theorem resetStep_timerCnt : (resetStep s).timerCnt = State.reset.timerCnt := rfl
@[simp] theorem resetStep_hold : (resetStep s).hold = State.reset.hold := rfl
@[simp] theorem resetStep_dec : (resetStep s).dec = State.reset.dec := rfl
@[simp] theorem resetStep_cfg : (resetStep s).cfg = s.cfg := rfl
@[simp] theorem resetStep_pending : (resetStep s).pending = s.pending := rfl
@[simp] theorem resetStep_out : (resetStep s).out = s.out := rfl

end resetStep

end Sys2Proof.Machine
end

