-- ==== Sys2Proof/Laws/Sequencer.lean ====
section
/-! SUPPORT. What the retry sequencer does: everything `Fail`, `try_transmit` and the tick can answer. -/

namespace Sys2Proof.Machine

variable {s t : State}

/-- R147, row by row. -/
theorem fail_next (h : fail s = .next t) :
    (s.eng = .openIWaitUa ∧ t = complete .connectionFailed { s with phase := .closed }) ∨
    (s.eng = .sendWaitAck ∧ t = complete .transmitFailed s) ∨
    (s.eng = .closeIWaitDisc ∧ t = complete .closeFailed { s with phase := .closed }) := by
  unfold fail at h
  split at h <;> cases h <;> simp [*]

/-- R146: a transmission, or the failure of the operation. -/
theorem tryTransmit_next (h : tryTransmit s = .next t) :
    (s.attempts < s.maxAttempts ∧ t = transmit s) ∨ (s.maxAttempts ≤ s.attempts ∧ fail s = .next t) := by
  unfold tryTransmit at h
  split at h
  · exact .inr ⟨‹_›, h⟩
  · cases h; exact .inl ⟨by omega, rfl⟩

theorem tryTransmit_under (h : s.attempts < s.maxAttempts) : tryTransmit s = .next (transmit s) :=
  if_neg (by omega)

theorem tryTransmit_spent (h : s.maxAttempts ≤ s.attempts) : tryTransmit s = fail s := if_pos h

/-- R147 has a row for every timed wait. -/
theorem tryTransmit_timed (h : s.eng = .openIWaitUa ∨ s.eng = .sendWaitAck ∨ s.eng = .closeIWaitDisc) :
    ∃ t, tryTransmit s = .next t := by
  by_cases hb : s.maxAttempts ≤ s.attempts
  · rw [tryTransmit_spent hb]
    rcases h with h | h | h <;> simp [fail, h]
  · exact ⟨_, tryTransmit_under (by omega)⟩

/-- The sequencer refuses nothing. -/
theorem tryTransmit_not_refused (r : Refusal) : tryTransmit s ≠ .refused r := by
  unfold tryTransmit fail
  split
  · split <;> simp
  · simp

/-- R148: the three cases of a tick. -/
theorem tickStep_next (h : tickStep s = .next t) :
    (s.timerArmed = false ∧ t = s) ∨
    (s.timerArmed = true ∧ 2 ≤ s.timerCnt ∧ t = { s with timerCnt := s.timerCnt - 1 }) ∨
    (s.timerArmed = true ∧ s.timerCnt < 2 ∧ tryTransmit { s with timerArmed := false } = .next t) := by
  cases ha : s.timerArmed
  · simp [tickStep, ha] at h; simp [h]
  · by_cases hc : 2 ≤ s.timerCnt
    · simp [tickStep, ha, hc] at h; simp [hc, h]
    · simp [tickStep, ha, hc, expire] at h; exact .inr (.inr ⟨rfl, by omega, h⟩)

end Sys2Proof.Machine
end

