-- ==== Sys2Proof/Laws/Exec.lean ====
section
/-! SUPPORT. What the meanings and the step can answer. -/

namespace Sys2Proof.Machine

open Host (Outcome)

variable {s t : State}

/-! Shared meanings. -/

/-- R117: an `OPEN` in its domain, with operands that fit, is accepted in `Closed`. -/
theorem execOpenOp_accepted {role : Role} {n k : Nat} (hk : 1 ≤ k) (hw : budgetFits s.cfg n k = true)
    (he : s.eng = .idle) (hp : s.phase = .closed) :
    execOpenOp role n k s =
      match role with
      | .initiator => startOpenI (openSession .initiator n k s)
      | .responder => startOpenR (openSession .responder n k s) := by
  unfold execOpenOp
  rw [if_neg (by omega), if_neg (by simp [hw]), if_neg (by simp [he]), if_neg (by simp [hp])]
  cases role <;> rfl

/-- R8, U14: an `OPEN` with operands that do not fit the registers is refused in every state. -/
theorem execOpenOp_tooWide {role : Role} {n k : Nat} (hk : 1 ≤ k) (hw : budgetFits s.cfg n k = false) :
    execOpenOp role n k s = .refused .budgetTooWide := by
  unfold execOpenOp
  rw [if_neg (by omega), if_pos hw]

/-- R122, R128: the close begins, by role. -/
theorem startClose_next (h : startClose s = .next t) :
    (s.role = .responder ∧ t = { s with phase := .closing, eng := .closeRWaitDisc }) ∨
    (s.role = .initiator ∧
      tryTransmit { s with phase := .closing, hold := encodeS 0x03 0x0B, attempts := 0, eng := .closeIWaitDisc } =
        .next t) := by
  unfold startClose at h
  split at h
  · exact .inr ⟨‹_›, h⟩
  · cases h; exact .inl ⟨‹_›, rfl⟩

/-- R131, R132, R134. -/
theorem receiveRr_next {n : Bit} (h : receiveRr n s = .next t) :
    s.eng ≠ .idle ∧ (t = s ∨ (s.eng = .sendWaitAck ∧ n = ~~~s.txSeq ∧ t = acknowledged s)) := by
  unfold receiveRr at h
  split at h <;> try (cases h <;> simp [*])
  split at h <;> cases h <;> simp [*]

/-- R131, R133, R134. -/
theorem receiveRej_next {n : Bit} (h : receiveRej n s = .next t) :
    s.eng ≠ .idle ∧ (t = s ∨ (s.eng = .sendWaitAck ∧ n = s.txSeq ∧ tryTransmit (disarm s) = .next t)) := by
  unfold receiveRej at h
  split at h <;> try (cases h <;> simp [*])
  split at h
  · simp [*]
  · cases h; simp [*]

/-- R138 to R140, R129, R134. -/
theorem receiveInfo_next {n : Bit} {p : List Byte} {x : Byte} (h : receiveInfo n p x s = .next t) :
    s.eng ≠ .idle ∧
    (t = s ∨
      (s.eng = .recvWait ∧
        ((x ≠ xorFold p ∧ t = emitTx (rejFrame s) s) ∨
         (x = xorFold p ∧ n = s.rxSeq ∧ t = acceptInfo p s) ∨
         (x = xorFold p ∧ n = ~~~s.rxSeq ∧ t = emitTx (rrFrame s) s)))) := by
  by_cases hw : s.eng = .recvWait
  swap
  · unfold receiveInfo at h
    split at h <;> cases h <;> simp_all
  simp only [receiveInfo, hw] at h
  cases h
  refine ⟨by simp [hw], .inr ⟨hw, ?_⟩⟩
  unfold receiveInfoWaiting
  by_cases hv : xorFold p = x
  · rcases bit_eq_or_eq_not n s.rxSeq with hn | hn
    · simp [hv, hn]
    · simp [hv, hn]
  · have hx : (xorFold p == x) = false := by simpa using hv
    simp [hx, Ne.symm hv]

/-! The step. -/

/-- R6, R7: a step takes an enabled event and handles it, or there is none and the engine waits. -/
theorem step_next (h : step s = .next t) :
    t = s ∨ ∃ e rest, takeEvent s.eng false s.pending = some (e, rest) ∧ enabled s.eng e = true ∧
      handle e { s with pending := rest } = .next t := by
  unfold step at h
  split at h
  · cases h; exact .inl rfl
  · rename_i e rest he
    exact .inr ⟨e, rest, he, (takeEvent_some he).1, h⟩

theorem step_head {e : Event} {rest : List Event} (hp : s.pending = e :: rest) (he : enabled s.eng e = true) :
    step s = handle e { s with pending := rest } := by
  unfold step
  rw [hp, takeEvent_head he]

/-- R101, by what the byte completes. -/
theorem rxStep_next {b : Byte} (h : rxStep b s = .next t) :
    (∃ d, (scanByte b s.dec = .needMore d ∨ scanByte b s.dec = .framingError d) ∧ t = { s with dec := d }) ∨
    (∃ i d, scanByte b s.dec = .symbol i d ∧ exec i { s with dec := d } = .next t) ∨
    (∃ a c p x d, scanByte b s.dec = .frame a c p x d ∧
      ((∃ i, instrOfFrame a c p x = some i ∧ exec i { s with dec := d } = .next t) ∨
       (instrOfFrame a c p x = none ∧ t = { s with dec := d }))) := by
  unfold rxStep at h
  split at h
  · cases h; exact .inl ⟨_, .inl ‹_›, rfl⟩
  · cases h; exact .inl ⟨_, .inr ‹_›, rfl⟩
  · exact .inr (.inl ⟨_, _, ‹_›, h⟩)
  · rename_i a c p x d hs
    refine .inr (.inr ⟨a, c, p, x, d, hs, ?_⟩)
    split at h
    · exact .inl ⟨_, ‹_›, h⟩
    · cases h; exact .inr ⟨‹_›, rfl⟩

/-! What no instruction touches. -/

/-- The surroundings of the engine: the parameter and the presented inputs are never written, and the history of the
outputs only grows (R29, R41). -/
def SameSurroundings (s t : State) : Prop := t.cfg = s.cfg ∧ t.pending = s.pending ∧ s.out <+: t.out

theorem SameSurroundings.refl (s : State) : SameSurroundings s s := ⟨rfl, rfl, List.prefix_rfl⟩

theorem fail_surroundings (h : fail s = .next t) : SameSurroundings s t := by
  rcases fail_next h with ⟨-, rfl⟩ | ⟨-, rfl⟩ | ⟨-, rfl⟩ <;> simp [SameSurroundings]

theorem tryTransmit_surroundings (h : tryTransmit s = .next t) : SameSurroundings s t := by
  rcases tryTransmit_next h with ⟨-, rfl⟩ | ⟨-, h⟩
  · simp [SameSurroundings]
  · exact fail_surroundings h

theorem startClose_surroundings (h : startClose s = .next t) : SameSurroundings s t := by
  rcases startClose_next h with ⟨-, rfl⟩ | ⟨-, h⟩
  · simp [SameSurroundings]
  · simpa [SameSurroundings] using tryTransmit_surroundings h

theorem exec_surroundings {i : Instr} (h : exec i s = .next t) : SameSurroundings s t := by
  cases i with
  | set a =>
    simp only [exec, execSet] at h
    split at h <;> cases h <;> simp [SameSurroundings]
  | ua a =>
    simp only [exec, execUa] at h
    split at h <;> cases h <;> simp [SameSurroundings]
  | disc a =>
    simp only [exec, execDisc] at h
    split at h <;> cases h <;> simp [SameSurroundings]
  | rr0 a | rr1 a =>
    obtain ⟨-, rfl | ⟨-, -, rfl⟩⟩ := receiveRr_next h <;> simp [SameSurroundings]
  | rej0 a | rej1 a =>
    obtain ⟨-, rfl | ⟨-, -, h⟩⟩ := receiveRej_next h
    · exact .refl _
    · simpa [SameSurroundings] using tryTransmit_surroundings h
  | i0 a p x | i1 a p x =>
    obtain ⟨-, rfl | ⟨-, ⟨-, rfl⟩ | ⟨-, -, rfl⟩ | ⟨-, -, rfl⟩⟩⟩ := receiveInfo_next h <;>
      simp [SameSurroundings, acceptInfo]
  | openOp role n k =>
    simp only [exec, execOpenOp] at h
    split at h <;> try cases h
    split at h <;> try cases h
    split at h <;> try cases h
    split at h
    · cases h; simp [SameSurroundings]
    · split at h
      · simpa [SameSurroundings] using tryTransmit_surroundings h
      · cases h; simp [SameSurroundings]
  | send p =>
    simp only [exec, execSend] at h
    split at h <;> try cases h
    split at h
    · cases h; simp [SameSurroundings]
    · split at h
      · cases h; simp [SameSurroundings]
      · simpa [SameSurroundings] using tryTransmit_surroundings h
  | receive =>
    simp only [exec, execReceive] at h
    split at h <;> try cases h
    split at h <;> cases h <;> simp [SameSurroundings]
  | close =>
    simp only [exec, execClose] at h
    split at h
    · split at h
      · cases h; simp [SameSurroundings]
      · exact startClose_surroundings h
    · split at h
      · obtain ⟨hc, hp, ho⟩ := startClose_surroundings h
        exact ⟨hc, hp, .trans (by simp) ho⟩
      · cases h
  | escFlag | escEsc | literal v =>
    obtain ⟨-, rfl⟩ := takeSymbol_next h
    simp [SameSurroundings]

end Sys2Proof.Machine
end

