-- ==== Sys2Proof/Laws/Effects.lean ====
section
/-! SUPPORT. The whole of what one instruction or one tick can do, case by case, so that a proof about every step can go
through these cases instead of through the meanings. -/

namespace Sys2Proof.Machine

/-- Everything an instruction (`some i`) or a tick (`none`) can do when it answers a next state, guards included. -/
inductive Effect : Option Instr → State → State → Prop
  | unchanged {i s} : Effect i s s
  | symbolTaken {i s} (d) (hi : isSymbol i = true) (hw : s.eng ≠ .idle) : Effect (some i) s { s with dec := d }
  | answered {i s} (r) (hi : isHostOp i = true) (he : s.eng = .idle) (hr : r = .invalidState ∨ r = .payloadTooLarge) :
      Effect (some i) s (respond r s)
  | openSends {s n k} (hw : budgetFits s.cfg n k = true) (he : s.eng = .idle) (hp : s.phase = .closed) (hk : 1 ≤ k) (hn : 0 < n) :
      Effect (some (.openOp .initiator n k)) s
        (transmit { openSession .initiator n k s with hold := encodeS 0x03 0x03, eng := .openIWaitUa })
  | openFails {s n k} (hw : budgetFits s.cfg n k = true) (he : s.eng = .idle) (hp : s.phase = .closed) (hk : 1 ≤ k) (hn : n = 0) :
      Effect (some (.openOp .initiator n k)) s
        (complete .connectionFailed { openSession .initiator n k s with hold := encodeS 0x03 0x03, eng := .openIWaitUa, phase := .closed })
  | openWaits {s n k} (hw : budgetFits s.cfg n k = true) (he : s.eng = .idle) (hp : s.phase = .closed) (hk : 1 ≤ k) :
      Effect (some (.openOp .responder n k)) s { openSession .responder n k s with eng := .openRWaitSet }
  | setAnswered {s a} (he : s.eng = .openRWaitSet) :
      Effect (some (.set a)) s (complete .ok { emitTx (encodeS 0x03 0x07) s with phase := .opened })
  | uaOpens {s a} (he : s.eng = .openIWaitUa) :
      Effect (some (.ua a)) s (complete .ok { disarm s with phase := .opened })
  | uaCloses {s a} (he : s.eng = .closeRWaitUa) : Effect (some (.ua a)) s (complete .ok { s with phase := .closed })
  | peerClosed {s a} (he : s.eng = .recvWait) : Effect (some (.disc a)) s (complete .peerClosed s)
  | discCloses {s a} (he : s.eng = .closeIWaitDisc) :
      Effect (some (.disc a)) s (complete .ok { emitTx (encodeS 0x01 0x07) (disarm s) with phase := .closed })
  | discAnswered {s a} (he : s.eng = .closeRWaitDisc) :
      Effect (some (.disc a)) s { emitTx (encodeS 0x01 0x0B) s with eng := .closeRWaitUa }
  | acked {s i} (he : s.eng = .sendWaitAck) (hi : (s.txSeq = 0 ∧ ∃ a, i = .rr1 a) ∨ (s.txSeq = 1 ∧ ∃ a, i = .rr0 a)) :
      Effect (some i) s (acknowledged s)
  | rejResends {s i} (he : s.eng = .sendWaitAck) (hi : ∃ a, i = .rej0 a ∨ i = .rej1 a)
      (hl : s.attempts < s.maxAttempts) :
      Effect (some i) s (transmit (disarm s))
  | rejFails {s i} (he : s.eng = .sendWaitAck) (hi : ∃ a, i = .rej0 a ∨ i = .rej1 a) :
      Effect (some i) s (complete .transmitFailed (disarm s))
  | infoRejected {s i} (he : s.eng = .recvWait) (hi : ∃ a p x, i = .i0 a p x ∨ i = .i1 a p x) :
      Effect (some i) s (emitTx (rejFrame s) s)
  | infoDuplicate {s i} (he : s.eng = .recvWait) (hi : ∃ a p x, i = .i0 a p x ∨ i = .i1 a p x) :
      Effect (some i) s (emitTx (rrFrame s) s)
  | infoAccepted {s i a p} (he : s.eng = .recvWait) (hi : (s.rxSeq = 0 ∧ i = .i0 a p (xorFold p)) ∨
      (s.rxSeq = 1 ∧ i = .i1 a p (xorFold p))) :
      Effect (some i) s (acceptInfo p s)
  | sendSends {s p} (he : s.eng = .idle) (hp : s.phase = .opened) (hl : p.length ≤ s.cfg.maxPayload)
      (hm : 0 < s.maxAttempts) :
      Effect (some (.send p)) s
        (transmit { s with hold := encodeI (addrOf s.role (.info s.txSeq)) (ctrlI s.txSeq) p, attempts := 0, eng := .sendWaitAck })
  | sendFails {s p} (he : s.eng = .idle) (hp : s.phase = .opened) (hl : p.length ≤ s.cfg.maxPayload)
      (hm : s.maxAttempts = 0) :
      Effect (some (.send p)) s
        (complete .transmitFailed { s with hold := encodeI (addrOf s.role (.info s.txSeq)) (ctrlI s.txSeq) p, attempts := 0, eng := .sendWaitAck })
  | receiveWaits {s} (he : s.eng = .idle) (hp : s.phase = .opened) :
      Effect (some .receive) s { s with eng := .recvWait }
  | closeWaits {s} (he : s.eng = .idle) (hp : s.phase = .opened) (hr : s.role = .responder) :
      Effect (some .close) s { s with phase := .closing, eng := .closeRWaitDisc }
  | closeSends {s} (he : s.eng = .idle) (hp : s.phase = .opened) (hr : s.role = .initiator) (hm : 0 < s.maxAttempts) :
      Effect (some .close) s
        (transmit { s with phase := .closing, hold := encodeS 0x03 0x0B, attempts := 0, eng := .closeIWaitDisc })
  | closeFails {s} (he : s.eng = .idle) (hp : s.phase = .opened) (hr : s.role = .initiator) (hm : s.maxAttempts = 0) :
      Effect (some .close) s
        (complete .closeFailed { s with phase := .closed, hold := encodeS 0x03 0x0B, attempts := 0, eng := .closeIWaitDisc })
  | abortWaits {s} (he : s.eng = .sendWaitAck ∨ s.eng = .recvWait) (hr : s.role = .responder) :
      Effect (some .close) s { respond .aborted (disarm s) with phase := .closing, eng := .closeRWaitDisc }
  | abortSends {s} (he : s.eng = .sendWaitAck ∨ s.eng = .recvWait) (hr : s.role = .initiator)
      (hm : 0 < s.maxAttempts) :
      Effect (some .close) s
        (transmit { respond .aborted (disarm s) with phase := .closing, hold := encodeS 0x03 0x0B, attempts := 0, eng := .closeIWaitDisc })
  | abortFails {s} (he : s.eng = .sendWaitAck ∨ s.eng = .recvWait) (hr : s.role = .initiator)
      (hm : s.maxAttempts = 0) :
      Effect (some .close) s
        (complete .closeFailed { respond .aborted (disarm s) with phase := .closed, hold := encodeS 0x03 0x0B, attempts := 0, eng := .closeIWaitDisc })
  | tickCounts {s} (ha : s.timerArmed = true) (hc : 2 ≤ s.timerCnt) :
      Effect none s { s with timerCnt := s.timerCnt - 1 }
  | tickResends {s} (ha : s.timerArmed = true) (hc : s.timerCnt < 2) (hl : s.attempts < s.maxAttempts) :
      Effect none s (transmit { s with timerArmed := false })
  | tickFailsOpen {s} (ha : s.timerArmed = true) (hc : s.timerCnt < 2) (hl : s.maxAttempts ≤ s.attempts)
      (he : s.eng = .openIWaitUa) :
      Effect none s (complete .connectionFailed { s with timerArmed := false, phase := .closed })
  | tickFailsSend {s} (ha : s.timerArmed = true) (hc : s.timerCnt < 2) (hl : s.maxAttempts ≤ s.attempts)
      (he : s.eng = .sendWaitAck) :
      Effect none s (complete .transmitFailed { s with timerArmed := false })
  | tickFailsClose {s} (ha : s.timerArmed = true) (hc : s.timerCnt < 2) (hl : s.maxAttempts ≤ s.attempts)
      (he : s.eng = .closeIWaitDisc) :
      Effect none s (complete .closeFailed { s with timerArmed := false, phase := .closed })

/-- R147, R148: the cases of a tick. -/
theorem tickStep_effect {s t : State} (h : tickStep s = .next t) : Effect none s t := by
  rcases tickStep_next h with ⟨-, rfl⟩ | ⟨ha, hc, rfl⟩ | ⟨ha, hc, hh⟩
  · exact .unchanged
  · exact .tickCounts ha hc
  · rcases tryTransmit_next hh with ⟨hl, rfl⟩ | ⟨hl, hf⟩
    · exact .tickResends ha hc hl
    · rcases fail_next hf with ⟨he, rfl⟩ | ⟨he, rfl⟩ | ⟨he, rfl⟩
      · exact .tickFailsOpen ha hc hl he
      · exact .tickFailsSend ha hc hl he
      · exact .tickFailsClose ha hc hl he

theorem bit_eq_one_of_zero_eq_not (s : Bit) (h : (0 : Bit) = ~~~s) : s = 1 := by revert s; decide
theorem bit_eq_zero_of_one_eq_not (s : Bit) (h : (1 : Bit) = ~~~s) : s = 0 := by revert s; decide

/-- The cases of an instruction. -/
theorem exec_effect {i : Instr} {s t : State} (h : exec i s = .next t) : Effect (some i) s t := by
  cases i with
  | set a =>
    simp only [exec, execSet] at h
    split at h <;> cases h <;> try exact .unchanged
    exact .setAnswered ‹_›
  | ua a =>
    simp only [exec, execUa] at h
    split at h <;> cases h <;> try exact .unchanged
    · exact .uaOpens ‹_›
    · exact .uaCloses ‹_›
  | disc a =>
    simp only [exec, execDisc] at h
    split at h <;> cases h <;> try exact .unchanged
    · exact .peerClosed ‹_›
    · exact .discCloses ‹_›
    · exact .discAnswered ‹_›
  | rr0 a =>
    obtain ⟨-, rfl | ⟨he, hn, rfl⟩⟩ := receiveRr_next h
    · exact .unchanged
    · exact .acked he (.inr ⟨bit_eq_one_of_zero_eq_not _ hn, _, rfl⟩)
  | rr1 a =>
    obtain ⟨-, rfl | ⟨he, hn, rfl⟩⟩ := receiveRr_next h
    · exact .unchanged
    · exact .acked he (.inl ⟨bit_eq_zero_of_one_eq_not _ hn, _, rfl⟩)
  | rej0 a | rej1 a =>
    obtain ⟨-, rfl | ⟨he, -, hh⟩⟩ := receiveRej_next h
    · exact .unchanged
    · rcases tryTransmit_next hh with ⟨hl, rfl⟩ | ⟨hl, hf⟩
      · exact .rejResends he (by simp) hl
      · rcases fail_next hf with ⟨he', rfl⟩ | ⟨he', rfl⟩ | ⟨he', rfl⟩
        · simp [he] at he'
        · exact .rejFails he (by simp)
        · simp [he] at he'
  | i0 a p x =>
    obtain ⟨-, rfl | ⟨he, ⟨-, rfl⟩ | ⟨hx, hn, rfl⟩ | ⟨-, -, rfl⟩⟩⟩ := receiveInfo_next h
    · exact .unchanged
    · exact .infoRejected he (by simp)
    · subst hx; exact .infoAccepted he (a := a) (.inl ⟨hn.symm, rfl⟩)
    · exact .infoDuplicate he (by simp)
  | i1 a p x =>
    obtain ⟨-, rfl | ⟨he, ⟨-, rfl⟩ | ⟨hx, hn, rfl⟩ | ⟨-, -, rfl⟩⟩⟩ := receiveInfo_next h
    · exact .unchanged
    · exact .infoRejected he (by simp)
    · subst hx; exact .infoAccepted he (a := a) (.inr ⟨hn.symm, rfl⟩)
    · exact .infoDuplicate he (by simp)
  | openOp role n k =>
    simp only [exec, execOpenOp] at h
    split at h
    · cases h
    rename_i hk
    have hk : 1 ≤ k := by omega
    split at h
    · cases h
    rename_i hw
    have hw := eq_true_of_ne_false hw
    split at h
    · cases h
    rename_i he
    simp at he
    split at h
    · cases h; exact .answered _ rfl he (.inl rfl)
    · rename_i hp
      simp at hp
      split at h
      · rcases tryTransmit_next h with ⟨hl, rfl⟩ | ⟨hl, hf⟩
        · exact .openSends hw he hp hk hl
        · rcases fail_next hf with ⟨he', rfl⟩ | ⟨he', rfl⟩ | ⟨he', rfl⟩
          · exact .openFails hw he hp hk (by simpa [openSession] using hl)
          · simp at he'
          · simp at he'
      · cases h; exact .openWaits hw he hp hk
  | send p =>
    simp only [exec, execSend] at h
    split at h
    · cases h
    rename_i he
    simp at he
    split at h
    · cases h; exact .answered _ rfl he (.inl rfl)
    · rename_i hp
      simp at hp
      split at h
      · cases h; exact .answered _ rfl he (.inr rfl)
      · rename_i hl0
        have hl0 := Nat.not_lt.1 hl0
        rcases tryTransmit_next h with ⟨hl, rfl⟩ | ⟨hl, hf⟩
        · exact .sendSends he hp hl0 hl
        · rcases fail_next hf with ⟨he', rfl⟩ | ⟨he', rfl⟩ | ⟨he', rfl⟩
          · simp at he'
          · exact .sendFails he hp hl0 (by simpa using hl)
          · simp at he'
  | receive =>
    simp only [exec, execReceive] at h
    split at h
    · cases h
    rename_i he
    simp at he
    split at h <;> cases h
    · exact .answered _ rfl he (.inl rfl)
    · rename_i hp; simp at hp; exact .receiveWaits he hp
  | close =>
    simp only [exec, execClose] at h
    split at h
    · rename_i he
      split at h
      · cases h; exact .answered _ rfl he (.inl rfl)
      · rename_i hp
        simp at hp
        rcases startClose_next h with ⟨hr, rfl⟩ | ⟨hr, hh⟩
        · exact .closeWaits he hp hr
        · rcases tryTransmit_next hh with ⟨hl, rfl⟩ | ⟨hl, hf⟩
          · exact .closeSends he hp hr hl
          · rcases fail_next hf with ⟨he', rfl⟩ | ⟨he', rfl⟩ | ⟨he', rfl⟩
            · simp at he'
            · simp at he'
            · exact .closeFails he hp hr (by simpa using hl)
    · split at h
      · rename_i hab
        have he : s.eng = .sendWaitAck ∨ s.eng = .recvWait := by simpa [Eng.abortable] using hab
        rcases startClose_next h with ⟨hr, rfl⟩ | ⟨hr, hh⟩
        · exact .abortWaits he hr
        · rcases tryTransmit_next hh with ⟨hl, rfl⟩ | ⟨hl, hf⟩
          · exact .abortSends he hr hl
          · rcases fail_next hf with ⟨he', rfl⟩ | ⟨he', rfl⟩ | ⟨he', rfl⟩
            · simp at he'
            · simp at he'
            · exact .abortFails he hr (by simpa using hl)
      · cases h
  | escFlag | escEsc | literal v =>
    obtain ⟨hw, rfl⟩ := takeSymbol_next h
    exact .symbolTaken _ rfl hw

end Sys2Proof.Machine
end

