-- ==== Sys2Proof/Laws/PerInstr.lean ====
section
/-! SUPPORT. Families of lemmas with one lemma per instruction. -/

namespace Sys2Proof.Laws

open Sys2Proof.Machine

/-- R61, R73, R76: every instruction is encoded on its own channel: the nine frames as at least five bytes between two
markers, the host operations as one message, the symbols as one or two bytes. -/
def EncodingChannel.Statement (i : Instr) : Prop :=
  match encode i with
  | .frame bytes =>
    isFrame i = true ∧ 5 ≤ bytes.length ∧ bytes.head? = some flag ∧ bytes.getLast? = some flag
  | .command _ => isHostOp i = true
  | .symbol bytes => isSymbol i = true ∧ (bytes.length = 1 ∨ bytes.length = 2)

theorem encodeS_shape (a c : Byte) :
    5 ≤ (encodeS a c).length ∧ (encodeS a c).head? = some flag ∧ (encodeS a c).getLast? = some flag := by
  simp [encodeS]

theorem frameI_shape (a c : Byte) (p : List Byte) (x : Byte) :
    5 ≤ (frameI a c p x).length ∧ (frameI a c p x).head? = some flag ∧ (frameI a c p x).getLast? = some flag := by
  refine ⟨by simp [frameI], by simp [frameI], ?_⟩
  rw [frameI, List.getLast?_append]
  rfl

theorem EncodingChannel.set (a : Byte) : Statement (.set a) := ⟨rfl, encodeS_shape a _⟩

theorem EncodingChannel.ua (a : Byte) : Statement (.ua a) := ⟨rfl, encodeS_shape a _⟩

theorem EncodingChannel.disc (a : Byte) : Statement (.disc a) := ⟨rfl, encodeS_shape a _⟩

theorem EncodingChannel.rr0 (a : Byte) : Statement (.rr0 a) := ⟨rfl, encodeS_shape a _⟩

theorem EncodingChannel.rr1 (a : Byte) : Statement (.rr1 a) := ⟨rfl, encodeS_shape a _⟩

theorem EncodingChannel.rej0 (a : Byte) : Statement (.rej0 a) := ⟨rfl, encodeS_shape a _⟩

theorem EncodingChannel.rej1 (a : Byte) : Statement (.rej1 a) := ⟨rfl, encodeS_shape a _⟩

theorem EncodingChannel.i0 (a : Byte) (p : List Byte) (bcc2 : Byte) : Statement (.i0 a p bcc2) :=
  ⟨rfl, frameI_shape a _ p bcc2⟩

theorem EncodingChannel.i1 (a : Byte) (p : List Byte) (bcc2 : Byte) : Statement (.i1 a p bcc2) :=
  ⟨rfl, frameI_shape a _ p bcc2⟩

theorem EncodingChannel.openOp (role : Role) (maxAttempts timeout : Nat) :
    Statement (.openOp role maxAttempts timeout) := rfl

theorem EncodingChannel.send (p : List Byte) : Statement (.send p) := rfl

theorem EncodingChannel.receive : Statement .receive := rfl

theorem EncodingChannel.close : Statement .close := rfl

theorem EncodingChannel.escFlag : Statement .escFlag := ⟨rfl, .inr rfl⟩

theorem EncodingChannel.escEsc : Statement .escEsc := ⟨rfl, .inr rfl⟩

theorem EncodingChannel.literal (v : Byte) : Statement (.literal v) := ⟨rfl, .inl rfl⟩

end Sys2Proof.Laws
end

