-- ==== Sys2Proof/Tests/Slice0.lean ====
section
/-! SUPPORT. Tests of this model. The expected values are the vectors of spec/95_test_vectors.md (named S, K, E, V, A, T
with their numbers) and words written out from the encoding rules; the last part has, for every obligation with
hypotheses, a witness that meets them. -/

namespace Sys2Proof.Tests

open Sys2Proof Sys2Proof.Machine
open Host (Outcome)

/-! ## Well-formedness: one ill-formed term for each check -/

theorem test_wf_set : Instr.wf 2 (.set 0x02) = false := by decide
theorem test_wf_ua : Instr.wf 2 (.ua 0x7E) = false := by decide
theorem test_wf_disc : Instr.wf 2 (.disc 0x00) = false := by decide
theorem test_wf_rr : Instr.wf 2 (.rr0 0x05) = false ∧ Instr.wf 2 (.rr1 0x83) = false := by decide
theorem test_wf_rej : Instr.wf 2 (.rej0 0x41) = false ∧ Instr.wf 2 (.rej1 0x81) = false := by decide
theorem test_wf_info_address : Instr.wf 2 (.i0 0x04 [] 0) = false ∧ Instr.wf 2 (.i1 0x04 [] 0) = false := by decide
theorem test_wf_info_length :
    Instr.wf 2 (.i0 0x03 [1, 2, 3] 0) = false ∧ Instr.wf 2 (.i1 0x03 [1, 2, 3] 0) = false := by decide
theorem test_wf_open : Instr.wf 2 (.openOp .initiator 3 0) = false := by decide
theorem test_wf_literal : Instr.wf 2 (.literal 0x7E) = false ∧ Instr.wf 2 (.literal 0x7D) = false := by decide
theorem test_wf_good :
    Instr.wf 2 (.i1 0x01 [0x7E, 0x7D] 0xFF) = true ∧ Instr.wf 0 (.openOp .responder 0 1) = true ∧
    Instr.wf 0 (.literal 0x5E) = true ∧ Instr.wf 0 (.send [1, 2, 3]) = true := by decide

/-! ## Decoding: words written out from the encodings (R61, R64, R73, R76; E1 to E27), for every constructor -/

theorem test_decode_set : decode 16 (.frame [0x7E, 0x03, 0x03, 0x00, 0x7E]) = .ok (.set 0x03) := rfl
theorem test_decode_ua : decode 16 (.frame [0x7E, 0x01, 0x07, 0x06, 0x7E]) = .ok (.ua 0x01) := rfl
theorem test_decode_disc : decode 16 (.frame [0x7E, 0x01, 0x0B, 0x0A, 0x7E]) = .ok (.disc 0x01) := rfl
theorem test_decode_rr0 : decode 16 (.frame [0x7E, 0x03, 0x05, 0x06, 0x7E]) = .ok (.rr0 0x03) := rfl
theorem test_decode_rr1 : decode 16 (.frame [0x7E, 0x01, 0x85, 0x84, 0x7E]) = .ok (.rr1 0x01) := rfl
theorem test_decode_rej0 : decode 16 (.frame [0x7E, 0x01, 0x01, 0x00, 0x7E]) = .ok (.rej0 0x01) := rfl
theorem test_decode_rej1 : decode 16 (.frame [0x7E, 0x03, 0x81, 0x82, 0x7E]) = .ok (.rej1 0x03) := rfl
/-- E17: the checksum is a reserved value and is stuffed. -/
theorem test_decode_i0 :
    decode 16 (.frame [0x7E, 0x03, 0x00, 0x03, 0x5E, 0x20, 0x7D, 0x5E, 0x7E]) = .ok (.i0 0x03 [0x5E, 0x20] 0x7E) := rfl
/-- E15. -/
theorem test_decode_i1 :
    decode 16 (.frame [0x7E, 0x03, 0x40, 0x43, 0x7D, 0x5E, 0x7D, 0x5D, 0x00, 0x03, 0x7E]) =
      .ok (.i1 0x03 [0x7E, 0x7D, 0x00] 0x03) := rfl
theorem test_decode_open : decode 16 (.command ⟨0b00, 1, 3, 4, []⟩) = .ok (.openOp .responder 3 4) := rfl
theorem test_decode_send : decode 16 (.command ⟨0b01, 0, 0, 0, [0x41]⟩) = .ok (.send [0x41]) := rfl
theorem test_decode_receive : decode 16 (.command ⟨0b10, 0, 0, 0, []⟩) = .ok .receive := rfl
theorem test_decode_close : decode 16 (.command ⟨0b11, 0, 0, 0, []⟩) = .ok .close := rfl
theorem test_decode_escFlag : decode 16 (.symbol [0x7D, 0x5E]) = .ok .escFlag := rfl
theorem test_decode_escEsc : decode 16 (.symbol [0x7D, 0x5D]) = .ok .escEsc := rfl
theorem test_decode_literal : decode 16 (.symbol [0x5E]) = .ok (.literal 0x5E) := rfl
/-- R108, U3: a second spelling of a literal. -/
theorem test_decode_second_spelling : decode 16 (.symbol [0x7D, 0x41]) = .ok (.literal 0x61) := rfl

/-! Rejection by name (R71; V4, V5, V7, V10, V12, V21, V22). -/

theorem test_reject_header :
    decode 16 (.frame [0x00, 0x03, 0x03, 0x00, 0x7E]) = .error .noMarker ∧
    decode 16 (.frame [0x7E, 0x02, 0x03, 0x01, 0x7E]) = .error .unknownAddress ∧
    decode 16 (.frame [0x7E, 0x03, 0x0F, 0x0C, 0x7E]) = .error .unknownControl ∧
    decode 16 (.frame [0x7E, 0x03, 0x03, 0x01, 0x7E]) = .error .headerChecksum ∧
    decode 16 (.frame [0x7E, 0x03, 0x07, 0x04, 0x41, 0x7E]) = .error .notClosed := ⟨rfl, rfl, rfl, rfl, rfl⟩
theorem test_reject_region :
    decode 16 (.frame [0x7E, 0x03, 0x00, 0x03, 0x7E]) = .error .framingError ∧
    decode 16 (.frame [0x7E, 0x03, 0x00, 0x03, 0x41, 0x7D, 0x7E]) = .error .framingError ∧
    decode 4 (.frame [0x7E, 0x03, 0x00, 0x03, 1, 2, 3, 4, 5, 1, 0x7E]) = .error .framingError ∧
    decode 16 (.frame [0x7E, 0x03, 0x00, 0x03, 0x41]) = .error .truncated ∧
    decode 16 (.frame [0x7E, 0x03, 0x07, 0x04, 0x7E, 0x7E]) = .error .trailing := ⟨rfl, rfl, rfl, rfl, rfl⟩
theorem test_reject_other :
    decode 16 (.symbol [0x7E]) = .error .notASymbol ∧ decode 16 (.symbol [0x7D]) = .error .truncated ∧
    decode 16 (.command ⟨0b00, 0, 3, 0, []⟩) = .error .timeoutZero := ⟨rfl, rfl, rfl⟩

/-! The host's words (assumption log 4). -/

theorem test_table_words :
    [5, 7, 0x0B, 0x85, 0x81, 0x40, 3, 1, 0].map (decodeTableWord 8) =
      [some (.rr0 3), some (.ua 3), some (.disc 3), some (.rr1 3), some (.rej1 3), some (.i1 3 [] 0), some (.set 3),
       some (.rej0 3), some (.i0 3 [] 0)] ∧
    [0, 1, 2, 3].map (decodeTableWord 2) =
      [some (.openOp .initiator 0 1), some (.send []), some .receive, some .close] ∧
    decodeTableWord 16 0x7D5E = some .escFlag ∧ decodeTableWord 16 0x7D5D = some .escEsc ∧
    decodeTableWord 8 0x41 = some (.literal 0x41) ∧ decodeTableWord 8 2 = some .receive := by decide

/-! ## Stuffing and checksums -/

/-- S1 to S11. -/
theorem test_stuff :
    stuff [] = [] ∧ stuff [0x7E] = [0x7D, 0x5E] ∧ stuff [0x7D] = [0x7D, 0x5D] ∧ stuff [0x5E] = [0x5E] ∧
    stuff [0x7D, 0x5E] = [0x7D, 0x5D, 0x5E] ∧ stuff [0x7C, 0x7D, 0x7E, 0x7F] = [0x7C, 0x7D, 0x5D, 0x7D, 0x5E, 0x7F] ∧
    stuff [0x20] = [0x20] := by decide

/-- S12 to S16. -/
theorem test_destuff :
    destuff [0x7D, 0x41] = some [0x61] ∧ destuff [0x7D, 0x7D, 0x5D] = some [0x5D, 0x5D] ∧
    destuff [0x41, 0x7D] = none ∧ destuff [0x7D] = none ∧ destuff [0x7D, 0x00] = some [0x20] := by decide

/-- K1, K2, K5, K7, K10, K11. -/
theorem test_xorFold :
    xorFold [] = 0x00 ∧ xorFold [0x41, 0x42] = 0x03 ∧ xorFold [0x68, 0x65, 0x6C, 0x6C, 0x6F] = 0x62 ∧
    xorFold [0x42, 0x41] = 0x03 ∧ xorFold [0x5E, 0x20] = 0x7E ∧ xorFold [0x41, 0x3C] = 0x7D := by decide

/-- E11, E18, E20. -/
theorem test_encodeI :
    encodeI 0x03 0x00 [0x41, 0x42] = [0x7E, 0x03, 0x00, 0x03, 0x41, 0x42, 0x03, 0x7E] ∧
    encodeI 0x03 0x00 [0x7D, 0x00] = [0x7E, 0x03, 0x00, 0x03, 0x7D, 0x5D, 0x00, 0x7D, 0x5D, 0x7E] ∧
    encodeI 0x01 0x40 [0x5A] = [0x7E, 0x01, 0x40, 0x41, 0x5A, 0x5A, 0x7E] := by decide

/-! ## The byte-at-a-time decoder -/

/-- The results of a byte sequence fed from reset that are not `NeedMore`, and the state at the end. -/
def decoded (maxPayload : Nat) (bytes : List Byte) : List DecResult × DecSt :=
  ((feedResults maxPayload bytes Decoder.reset).filter (· != .needMore), (feed maxPayload bytes Decoder.reset).st)

/-- V2: noise before the marker. -/
theorem test_decoder_noise :
    decoded 16 [0x00, 0xFF, 0x7D, 0x7E, 0x03, 0x03, 0x00, 0x7E] = ([.frame 0x03 0x03 [] true], .idle) := by decide
/-- V6 and V9: a marker in `AddressSeen` restarts, in the place of BCC1 it is spent. -/
theorem test_decoder_markers :
    decoded 16 [0x7E, 0x03, 0x7E, 0x03, 0x05, 0x06, 0x7E] = ([.frame 0x03 0x05 [] true], .idle) ∧
    decoded 16 [0x7E, 0x03, 0x03, 0x7E, 0x03, 0x03, 0x00, 0x7E] = ([], .flagSeen) := by decide
/-- V11, V12, V14: six-byte supervisory frame, empty region, wrong checksum of an empty payload. -/
theorem test_decoder_short_regions :
    decoded 16 [0x7E, 0x03, 0x07, 0x04, 0x00, 0x7E] = ([], .flagSeen) ∧
    decoded 16 [0x7E, 0x03, 0x00, 0x03, 0x7E] = ([.framingError], .idle) ∧
    decoded 16 [0x7E, 0x03, 0x00, 0x03, 0x55, 0x7E] = ([.frame 0x03 0x00 [] false], .idle) := by decide
/-- V20 and V21: the capacity. -/
theorem test_decoder_capacity :
    decoded 4 [0x7E, 0x03, 0x00, 0x03, 1, 2, 3, 4, 4, 0x7E] = ([.frame 0x03 0x00 [1, 2, 3, 4] true], .idle) ∧
    decoded 4 [0x7E, 0x03, 0x00, 0x03, 1, 2, 3, 4, 5, 1, 0x7E] = ([.framingError], .flagSeen) := by decide
/-- V22, V24, V25: escapes. -/
theorem test_decoder_escapes :
    decoded 16 [0x7E, 0x03, 0x00, 0x03, 0x41, 0x7D, 0x7E] = ([.framingError], .idle) ∧
    decoded 16 [0x7E, 0x03, 0x00, 0x03, 0x7D, 0x41, 0x61, 0x7E] = ([.frame 0x03 0x00 [0x61] true], .idle) ∧
    decoded 16 [0x7E, 0x03, 0x00, 0x03, 0x7D, 0x7D, 0x5D, 0x7E] = ([.frame 0x03 0x00 [0x5D] true], .idle) := by decide
/-- V28 and V30: a marker shared by two frames. -/
theorem test_decoder_shared_marker :
    decoded 16 [0x7E, 0x03, 0x05, 0x06, 0x7E, 0x03, 0x85, 0x86, 0x7E] = ([.frame 0x03 0x05 [] true], .flagSeen) ∧
    decoded 16 [0x7E, 0x03, 0x00, 0x03, 0x41, 0x7E, 0x03, 0x05, 0x06, 0x7E] =
      ([.frame 0x03 0x00 [] false], .flagSeen) := by decide

/-! ## One step of each instruction -/

/-- A station after `Reset` with `MAX_PAYLOAD = 16` and counters of 4 bits. -/
def station : State := { State.reset with cfg := ⟨16, 4, 4⟩ }

/-- A station in a session with the budget (3, 4). -/
def session (role : Role) (phase : Phase) (eng : Eng) : State :=
  { station with role := role, phase := phase, eng := eng, maxAttempts := 3, timeout := 4 }

/-- A station whose timer runs. -/
def timedSession (role : Role) (phase : Phase) (eng : Eng) (attempts cnt : Nat) (hold : List Byte) : State :=
  { session role phase eng with attempts := attempts, timerArmed := true, timerCnt := cnt, hold := hold }

def frameE11 : List Byte := [0x7E, 0x03, 0x00, 0x03, 0x41, 0x42, 0x03, 0x7E]

def sendingE11 (attempts cnt : Nat) : State := timedSession .initiator .opened .sendWaitAck attempts cnt frameE11

/-- What the vectors show of a state. -/
structure View where
  phase : Phase
  eng : Eng
  tx : Bit
  rx : Bit
  att : Nat
  tmr : Option Nat
  dec : DecSt
  out : List Output
deriving DecidableEq, Repr

/-- What the vectors show of a next state. -/
def view (o : Outcome State Fault Refusal) : Option View :=
  match o with
  | .next t =>
    some ⟨t.phase, t.eng, t.txSeq, t.rxSeq, t.attempts, if t.timerArmed then some t.timerCnt else none, t.dec.st, t.out⟩
  | _ => none

/-- A1. -/
theorem test_open_initiator :
    view (exec (.openOp .initiator 3 4) station) =
      some ⟨.establishing, .openIWaitUa, 0, 0, 1, some 4, .idle, [.tx [0x7E, 0x03, 0x03, 0x00, 0x7E]]⟩ := by decide
/-- A3. -/
theorem test_open_no_budget :
    view (exec (.openOp .initiator 0 1) station) =
      some ⟨.closed, .idle, 0, 0, 0, none, .idle, [.rsp .connectionFailed]⟩ := by decide
/-- A9. -/
theorem test_set :
    view (exec (.set 0x03) (session .responder .establishing .openRWaitSet)) =
      some ⟨.opened, .idle, 0, 0, 0, none, .idle, [.tx [0x7E, 0x03, 0x07, 0x04, 0x7E], .rsp .ok]⟩ := by decide
/-- A7: UA with the other address. -/
theorem test_ua :
    view (exec (.ua 0x01) (timedSession .initiator .establishing .openIWaitUa 1 4 [])) =
      some ⟨.opened, .idle, 0, 0, 1, none, .idle, [.rsp .ok]⟩ := by decide
/-- A32. -/
theorem test_disc_initiator_close :
    view (exec (.disc 0x01) (timedSession .initiator .closing .closeIWaitDisc 1 4 [])) =
      some ⟨.closed, .idle, 0, 0, 1, none, .idle, [.tx [0x7E, 0x01, 0x07, 0x06, 0x7E], .rsp .ok]⟩ := by decide
/-- A34: a second DISC is ignored. -/
theorem test_disc_ignored :
    view (exec (.disc 0x03) (session .responder .closing .closeRWaitUa)) =
      some ⟨.closing, .closeRWaitUa, 0, 0, 0, none, .idle, []⟩ := by decide
/-- A11. -/
theorem test_send :
    view (exec (.send [0x41, 0x42]) (session .initiator .opened .idle)) =
      some ⟨.opened, .sendWaitAck, 0, 0, 1, some 4, .idle, [.tx frameE11]⟩ := by decide
/-- A28: seventeen bytes. -/
theorem test_send_too_large :
    view (exec (.send (List.replicate 17 0)) (session .initiator .opened .idle)) =
      some ⟨.opened, .idle, 0, 0, 0, none, .idle, [.rsp .payloadTooLarge]⟩ := by decide
/-- A21. -/
theorem test_rr1 :
    view (exec (.rr1 0x03) (sendingE11 1 4)) =
      some ⟨.opened, .idle, 1, 0, 1, none, .idle, [.rsp (.okSent 8)]⟩ := by decide
/-- A22: stale. -/
theorem test_rr0_stale :
    view (exec (.rr0 0x03) (sendingE11 1 1)) =
      some ⟨.opened, .sendWaitAck, 0, 0, 1, some 1, .idle, []⟩ := by decide
/-- A23 and A24. -/
theorem test_rej0 :
    view (exec (.rej0 0x03) (sendingE11 1 2)) =
      some ⟨.opened, .sendWaitAck, 0, 0, 2, some 4, .idle, [.tx frameE11]⟩ ∧
    view (exec (.rej0 0x03) (sendingE11 3 2)) =
      some ⟨.opened, .idle, 0, 0, 3, none, .idle, [.rsp .transmitFailed]⟩ := by decide
/-- A25. -/
theorem test_rej1_ignored :
    view (exec (.rej1 0x03) (sendingE11 1 2)) = some ⟨.opened, .sendWaitAck, 0, 0, 1, some 2, .idle, []⟩ := by decide
theorem test_receive :
    view (exec .receive (session .responder .opened .idle)) =
      some ⟨.opened, .recvWait, 0, 0, 0, none, .idle, []⟩ := by decide
/-- A13. -/
theorem test_i0_new :
    view (exec (.i0 0x03 [0x41, 0x42] 0x03) (session .responder .opened .recvWait)) =
      some ⟨.opened, .idle, 0, 1, 0, none, .idle,
        [.tx [0x7E, 0x03, 0x85, 0x86, 0x7E], .rsp (.data [0x41, 0x42])]⟩ := by decide
/-- A12 and A15, with the number 1 expected. -/
theorem test_i0_duplicate_and_damaged :
    let s := { session .responder .opened .recvWait with rxSeq := 1 }
    view (exec (.i0 0x03 [0x41, 0x42] 0x03) s) =
      some ⟨.opened, .recvWait, 0, 1, 0, none, .idle, [.tx [0x7E, 0x03, 0x85, 0x86, 0x7E]]⟩ ∧
    view (exec (.i0 0x03 [0x41, 0x43] 0x03) s) =
      some ⟨.opened, .recvWait, 0, 1, 0, none, .idle, [.tx [0x7E, 0x03, 0x81, 0x82, 0x7E]]⟩ := by decide
/-- A18: an empty payload. -/
theorem test_i1_empty :
    view (exec (.i1 0x03 [] 0x00) { session .responder .opened .recvWait with rxSeq := 1 }) =
      some ⟨.opened, .idle, 0, 0, 0, none, .idle, [.tx [0x7E, 0x03, 0x05, 0x06, 0x7E], .rsp (.data [])]⟩ := by decide
/-- A30 and A31. -/
theorem test_close :
    view (exec .close (session .initiator .opened .idle)) =
      some ⟨.closing, .closeIWaitDisc, 0, 0, 1, some 4, .idle, [.tx [0x7E, 0x03, 0x0B, 0x08, 0x7E]]⟩ ∧
    view (exec .close (session .responder .opened .idle)) =
      some ⟨.closing, .closeRWaitDisc, 0, 0, 0, none, .idle, []⟩ := by decide
/-- A36. -/
theorem test_close_aborts :
    view (exec .close (sendingE11 1 4)) =
      some ⟨.closing, .closeIWaitDisc, 0, 0, 1, some 4, .idle,
        [.rsp .aborted, .tx [0x7E, 0x03, 0x0B, 0x08, 0x7E]]⟩ := by decide

/-- A station in a protected region. -/
def inRegion (buf : List Byte) (esc : Bool) : State :=
  { session .responder .opened .recvWait with dec := ⟨.inPayload, 0x03, 0x00, esc, buf⟩ }

/-- What the vectors show of the decoder. -/
def decView (o : Outcome State Fault Refusal) : Option Decoder :=
  match o with
  | .next t => some t.dec
  | _ => none

theorem test_escFlag :
    decView (exec .escFlag (inRegion [0x41] false)) = some ⟨.inPayload, 0x03, 0x00, false, [0x41, 0x7E]⟩ := by decide
theorem test_escEsc :
    decView (exec .escEsc (inRegion [] false)) = some ⟨.inPayload, 0x03, 0x00, false, [0x7D]⟩ := by decide
/-- R109: byte number `MAX_PAYLOAD + 2`. -/
theorem test_literal_overflow :
    decView (exec (.literal 0x41) (inRegion (List.replicate 17 0) false)) =
      some ⟨.idle, 0x03, 0x00, false, []⟩ := by decide
theorem test_literal :
    decView (exec (.literal 0x5E) (inRegion [0x41] false)) =
      some ⟨.inPayload, 0x03, 0x00, false, [0x41, 0x5E]⟩ := by decide

/-! ## Ticks, reset, events -/

/-- T1, T2, T3. -/
theorem test_tick :
    view (tickStep (sendingE11 1 3)) = some ⟨.opened, .sendWaitAck, 0, 0, 1, some 2, .idle, []⟩ ∧
    view (tickStep (sendingE11 1 1)) = some ⟨.opened, .sendWaitAck, 0, 0, 2, some 4, .idle, [.tx frameE11]⟩ ∧
    view (tickStep (sendingE11 3 1)) = some ⟨.opened, .idle, 0, 0, 3, none, .idle, [.rsp .transmitFailed]⟩ := by decide
/-- T4, T5, T6. -/
theorem test_tick_failures :
    view (tickStep (timedSession .initiator .establishing .openIWaitUa 3 1 [])) =
      some ⟨.closed, .idle, 0, 0, 3, none, .idle, [.rsp .connectionFailed]⟩ ∧
    view (tickStep (timedSession .initiator .closing .closeIWaitDisc 3 1 [])) =
      some ⟨.closed, .idle, 0, 0, 3, none, .idle, [.rsp .closeFailed]⟩ ∧
    view (tickStep (session .responder .opened .recvWait)) =
      some ⟨.opened, .recvWait, 0, 0, 0, none, .idle, []⟩ := by decide
/-- A38. -/
theorem test_reset :
    view (step { sendingE11 2 3 with txSeq := 1, pending := [.reset] }) =
      some ⟨.closed, .idle, 0, 0, 0, none, .idle, []⟩ := by decide
/-- U10: a command presented while busy is held, and a byte presented after it is taken. -/
theorem test_held_command :
    (match step { sendingE11 1 4 with pending := [.cmd (CmdMsg.bare 0b10), .rxByte 0x7E, .tick] } with
      | .next t => some (t.pending, t.dec.st)
      | _ => none) = some ([.cmd (CmdMsg.bare 0b10), .tick], .flagSeen) := by decide
/-- The last byte of P7: the step that completes RR1 runs it. -/
theorem test_step_runs_frame :
    view (step { sendingE11 1 2 with dec := ⟨.awaitEndS, 0x03, 0x85, false, []⟩, pending := [.rxByte 0x7E] }) =
      some ⟨.opened, .idle, 1, 0, 1, none, .idle, [.rsp (.okSent 8)]⟩ := by decide
/-- The host's way to run one instruction (assumption log 4). -/
theorem test_withFetchWord :
    view (step (station.withFetchWord 8 0x0B)) =
      some ⟨.opened, .idle, 0, 0, 0, none, .idle, [.rsp .peerClosed]⟩ ∧
    view (step (station.withFetchWord 2 0)) =
      some ⟨.closed, .idle, 0, 0, 0, none, .idle, [.rsp .connectionFailed]⟩ ∧
    decView (step (station.withFetchWord 16 0x7D5D)) = some ⟨.inPayload, 0, 0, false, [0x7D]⟩ := by decide

/-! ## Witnesses: for every obligation with hypotheses, operands and states that meet them, clause by clause -/

/-- A payload of `MAX_PAYLOAD = 16` reserved bytes, the longest. -/
def longest : List Byte := List.replicate 16 0x7E

theorem witness_DecodeEncodeRoundTrip :
    Instr.wf 16 (.i0 0x03 longest 0x7D) = true ∧ Instr.wf 0 (.i1 0x01 [] 0x55) = true ∧
    Instr.wf 0 (.openOp .responder 0 1) = true := by decide

theorem witness_DecodeStopsAtInstructionEnd :
    Instr.wf 16 (.i1 0x01 longest 0x7D) = true ∧ encode (.i1 0x01 [0x7D] 0x7D) =
      .frame [0x7E, 0x01, 0x40, 0x41, 0x7D, 0x5D, 0x7D, 0x5D, 0x7E] ∧
    Instr.wf 16 .escEsc = true ∧ encode .escEsc = .symbol [0x7D, 0x5D] := by decide

theorem witness_DecodedInstructionIsWellFormed :
    decode 1 (.frame [0x7E, 0x01, 0x40, 0x41, 0x7D, 0x5D, 0x7D, 0x5D, 0x7E]) = .ok (.i1 0x01 [0x7D] 0x7D) := rfl

/-- Clause 4: a region at the capacity, and one with an unpaired escape byte. -/
theorem witness_DestuffInvertsStuffAndDecoderDestuffs :
    flag ∉ [(0x41 : Byte), 0x7D, 0x5E] ∧ destuff [0x41, 0x7D, 0x5E] = some [0x41, 0x7E] ∧
    [(0x41 : Byte), 0x7E].length ≤ 1 + 1 ∧
    flag ∉ [(0x41 : Byte), 0x7D] ∧ destuff [0x41, 0x7D] = none ∧
    (⟨.inPayload, 0x03, 0x00, false, []⟩ : Decoder).buf = [] := by decide

theorem witness_StuffProperties : stuff [0x41, 0x7E, 0x42] = [0x41] ++ 0x7D :: [0x5E, 0x42] := by decide

theorem witness_PayloadCheckIsZeroFold : [(0x41 : Byte), 0x42, 0x03] ≠ [] := by decide

theorem witness_ChecksumsDetectFlips :
    payloadOk [0x41, 0x42, 0x03] = true ∧ [(0x41 : Byte), 0x42, 0x03].length = [(0x40 : Byte), 0x43, 0x03].length ∧
    (2 < [(0x41 : Byte), 0x42, 0x03].length ∧ 7 < 8) ∧ headerOk 0x03 0x85 0x86 = true := by decide

theorem witness_InformationFrameBytesAndLength : longest.length ≤ 16 ∧ ([] : List Byte).length ≤ 0 := by decide

theorem witness_FramesHaveTwoMarkers :
    isAddress 0x01 = true ∧ (ControlField.info 1).isInfo = true ∧ (ControlField.rej 1).isInfo = false := by decide

/-- One legal decoder in each of its states. -/
def decoderIn (st : DecSt) : Decoder := { st := st, addr := 0x03, ctrl := 0x00, esc := false, buf := [0x41] }

theorem decoderIn_legal (st : DecSt) (h : st ≠ .awaitEndS) : (decoderIn st).Legal := by
  cases st with
  | idle | flagSeen => exact ⟨by decide, trivial⟩
  | addressSeen => exact ⟨by decide, rfl⟩
  | controlSeen | inPayload => exact ⟨by decide, rfl, rfl⟩
  | awaitEndS => exact absurd rfl h

theorem witness_DecoderFollowsTheTable :
    (∀ st, st ≠ .awaitEndS → (decoderIn st).Legal) ∧
    Decoder.Legal ⟨.awaitEndS, 0x01, 0x85, false, []⟩ ∧ Decoder.Legal ⟨.inPayload, 0x01, 0x40, true, []⟩ :=
  ⟨decoderIn_legal, ⟨by decide, by decide⟩, ⟨by decide, by decide⟩⟩

theorem witness_TwoMarkersResynchronise :
    (decoderIn .addressSeen).Legal ∧ (decoderIn .controlSeen).Legal ∧ (decoderIn .inPayload).Legal :=
  ⟨decoderIn_legal _ (by decide), decoderIn_legal _ (by decide), decoderIn_legal _ (by decide)⟩

/-- A waiting station that is presented one byte, its decoder being `d`. -/
def taking (b : Byte) (d : Decoder) : State :=
  { session .responder .opened .recvWait with dec := d, pending := [.rxByte b] }

/-- One state for each of the three results. -/
theorem witness_RxByteDecodesThenHandles :
    (taking 0x7E Decoder.reset).pending = .rxByte 0x7E :: [] ∧ (taking 0x7E Decoder.reset).eng ≠ .idle ∧
    (decodeByte 16 0x7E Decoder.reset).2 = .needMore ∧
    (decodeByte 16 0x7E ⟨.inPayload, 0x03, 0x00, false, []⟩).2 = .framingError ∧
    (decodeByte 16 0x7E ⟨.inPayload, 0x03, 0x00, false, [0x41, 0x41]⟩).2 = .frame 0x03 0x00 [0x41] true := by decide

/-- The first part has no hypothesis; in each of the three places, and in the silent drops. -/
theorem witness_FramingErrorsAreLocal :
    (decodeByte 1 0x7E ⟨.inPayload, 0x03, 0x00, true, []⟩).2 = .framingError ∧
    (decodeByte 1 0x41 ⟨.inPayload, 0x03, 0x00, false, [0, 0]⟩).2 = .framingError ∧
    (decodeByte 1 0x7E ⟨.inPayload, 0x03, 0x00, false, []⟩).2 = .framingError ∧
    (taking 0x7E ⟨.inPayload, 0x03, 0x00, false, []⟩).eng ≠ .idle ∧
    (decodeByte 16 0x7E (taking 0x7E ⟨.inPayload, 0x03, 0x00, false, []⟩).dec).2 = .framingError := by decide

theorem witness_FrameBytesGiveTheFrame :
    Instr.wf 16 (.i0 0x03 longest 0x00) = true ∧ encode (.rr1 0x01) = .frame [0x7E, 0x01, 0x85, 0x84, 0x7E] ∧
    Instr.wf 16 (.rr1 0x01) = true ∧ (decoderIn .flagSeen).st = .flagSeen ∧ Decoder.reset.st = .idle := by decide

/-- A spelling that no encoder of this spec produces, and a supervisory frame. -/
theorem witness_ByteDecoderAgreesWithFrameDecoder :
    decodeFrame 1 [0x7E, 0x03, 0x00, 0x03, 0x7D, 0x41, 0x61, 0x7E, 0x55] = .ok (.i0 0x03 [0x61] 0x61, [0x55]) ∧
    decodeFrame 1 [0x7E, 0x01, 0x85, 0x84, 0x7E, 0x55] = .ok (.rr1 0x01, [0x55]) ∧ isSup 0x85 = true :=
  ⟨rfl, rfl, rfl⟩

/-- With room for one byte more, and full. -/
theorem witness_SymbolsAccumulate :
    (inRegion (List.replicate 16 0) false).eng ≠ .idle ∧
    (inRegion (List.replicate 16 0) false).dec.st = .inPayload ∧
    (inRegion (List.replicate 17 0) false).dec.buf.length = (inRegion [] false).cfg.maxPayload + 1 ∧
    (inRegion (List.replicate 17 0) false).dec.esc = false ∧ (0x5E : Byte) ≠ 0x7E ∧ (0x5E : Byte) ≠ 0x7D := by decide

theorem witness_SymbolsOutsideARegion :
    (taking 0x41 (decoderIn .controlSeen)).eng ≠ .idle ∧ (decoderIn .controlSeen).st ≠ .inPayload ∧
    (decoderIn .controlSeen).Legal ∧ Decoder.reset.Legal ∧ Decoder.reset.st = .idle ∧ isSymbol .escEsc = true :=
  ⟨by decide, by decide, decoderIn_legal _ (by decide), ⟨by decide, trivial⟩, rfl, rfl⟩

/-- Each clause, with the least budget and timeout and with the greatest that fit, and the first two that do not. -/
theorem witness_OpenStartsASession :
    15 < 2 ^ station.cfg.attW ∧ 15 < 2 ^ station.cfg.tmoW ∧ 2 ^ station.cfg.attW ≤ 16 ∧ 2 ^ station.cfg.tmoW ≤ 16 ∧
    1 < 2 ^ station.cfg.attW ∧ 1 < 2 ^ station.cfg.tmoW ∧
    station.eng = .idle ∧ station.phase = .closed ∧ (1 ≤ 1 ∧ 0 = 0) ∧
    (session .initiator .opened .idle).eng = .idle ∧ (session .initiator .opened .idle).phase ≠ .closed := by decide

/-- The clauses of `CLOSE`: not open, Responder, Initiator with a budget and with none. -/
theorem witness_CloseFromIdle :
    station.eng = .idle ∧ station.phase ≠ .opened ∧
    (session .responder .opened .idle).phase = .opened ∧ (session .responder .opened .idle).role = .responder ∧
    1 ≤ (session .initiator .opened .idle).maxAttempts ∧
    ({ session .initiator .opened .idle with maxAttempts := 0 } : State).maxAttempts = 0 := by decide

/-- `maxAttempts = 0` in `Recv_Wait`; and the wait `CloseR_WaitUa`, in which `CLOSE` is not enabled. -/
theorem witness_CloseAbortsTheOperation :
    (sendingE11 1 4).eng = .sendWaitAck ∧ (sendingE11 1 4).role = .initiator ∧ 1 ≤ (sendingE11 1 4).maxAttempts ∧
    ({ session .initiator .opened .recvWait with maxAttempts := 0 } : State).maxAttempts = 0 ∧
    (session .responder .opened .recvWait).role = .responder ∧
    (session .responder .closing .closeRWaitUa).eng ≠ .idle ∧
    (session .responder .closing .closeRWaitUa).eng ≠ .sendWaitAck ∧
    (session .responder .closing .closeRWaitUa).eng ≠ .recvWait := by decide

/-- Payloads of `MAX_PAYLOAD` and of `MAX_PAYLOAD + 1` bytes. -/
theorem witness_SendTransmitsTheFrame :
    station.eng = .idle ∧ station.phase ≠ .opened ∧
    (session .responder .opened .idle).eng = .idle ∧ (session .responder .opened .idle).phase = .opened ∧
    longest.length ≤ (session .responder .opened .idle).cfg.maxPayload ∧
    (session .responder .opened .idle).cfg.maxPayload < (0x00 :: longest).length ∧
    1 ≤ (session .responder .opened .idle).maxAttempts ∧
    ({ session .responder .opened .idle with maxAttempts := 0 } : State).maxAttempts = 0 := by decide

theorem witness_ReceiveWaits :
    station.eng = .idle ∧ station.phase ≠ .opened ∧
    (session .initiator .opened .idle).eng = .idle ∧ (session .initiator .opened .idle).phase = .opened := by decide

theorem witness_SetOpensTheResponder : (session .responder .establishing .openRWaitSet).eng = .openRWaitSet := rfl

theorem witness_UaCompletesOpenAndClose :
    (session .initiator .establishing .openIWaitUa).eng = .openIWaitUa ∧
    (session .responder .closing .closeRWaitUa).eng = .closeRWaitUa := ⟨rfl, rfl⟩

theorem witness_DiscEndsReceiveAndCloses :
    (session .responder .opened .recvWait).eng = .recvWait ∧
    (session .initiator .closing .closeIWaitDisc).eng = .closeIWaitDisc ∧
    (session .responder .closing .closeRWaitDisc).eng = .closeRWaitDisc := ⟨rfl, rfl, rfl⟩

theorem witness_RrAcknowledgesTheFrame :
    (sendingE11 1 4).eng = .sendWaitAck ∧ (sendingE11 1 4).txSeq = 0 ∧
    ({ sendingE11 1 4 with txSeq := 1 } : State).txSeq = 1 := by decide

/-- One attempt left, and none. -/
theorem witness_RejRetransmits :
    (sendingE11 2 4).eng = .sendWaitAck ∧ (sendingE11 2 4).txSeq = 0 ∧
    (sendingE11 2 4).attempts < (sendingE11 2 4).maxAttempts ∧
    (sendingE11 3 4).maxAttempts ≤ (sendingE11 3 4).attempts ∧
    ({ sendingE11 1 4 with txSeq := 1 } : State).txSeq = 1 := by decide

theorem witness_InformationFrameReceived :
    (session .responder .opened .recvWait).eng = .recvWait ∧ (session .responder .opened .recvWait).rxSeq = 0 ∧
    (0x03 : Byte) = xorFold [0x41, 0x42] ∧ (0x03 : Byte) ≠ xorFold [0x41, 0x43] ∧ (1 : Bit) = ~~~0 := by decide

theorem witness_OtherFramesAreIgnored :
    isFrame (.i0 0x03 [] 0x55) = true ∧ (sendingE11 1 4).eng ≠ .idle ∧
    actsOn (sendingE11 1 4).eng (sendingE11 1 4).txSeq (.i0 0x03 [] 0x55) = false ∧
    actsOn .closeRWaitUa 0 (.disc 0x03) = false := by decide

/-- A legal state in the middle of a `SEND`. -/
theorem sending_inv : EngineInv (sendingE11 1 4) :=
  ⟨⟨rfl, rfl⟩, by unfold BudgetLegal; decide, ⟨by decide, by decide, by decide, by decide⟩, by decide,
    ⟨[0x41, 0x42], by decide, by decide⟩, trivial, ⟨by decide, trivial⟩⟩

/-- The same with the timer at its last tick: the step retransmits. -/
def expiring : State := { sendingE11 1 1 with pending := [.tick] }

theorem expiring_inv : EngineInv expiring :=
  ⟨⟨rfl, rfl⟩, by unfold BudgetLegal; decide, ⟨by decide, by decide, by decide, by decide⟩, by decide,
    ⟨[0x41, 0x42], by decide, by decide⟩, trivial, ⟨by decide, trivial⟩⟩

theorem witness_NoAcknowledgmentOutsideReceive :
    EngineInv expiring ∧ (∃ t, step expiring = .next t ∧ newOutputs expiring t = [.tx frameE11]) ∧
    expiring.eng ≠ .recvWait :=
  ⟨expiring_inv, ⟨_, rfl, by decide⟩, by decide⟩

/-- One attempt left, and none in each of the three timed waits. -/
theorem witness_TryTransmitUnderTheBudget :
    (sendingE11 2 4).attempts < (sendingE11 2 4).maxAttempts ∧
    (sendingE11 3 4).maxAttempts ≤ (sendingE11 3 4).attempts ∧ (sendingE11 3 4).eng = .sendWaitAck ∧
    (timedSession .initiator .establishing .openIWaitUa 3 1 []).maxAttempts ≤ 3 ∧
    (timedSession .initiator .closing .closeIWaitDisc 3 1 []).eng = .closeIWaitDisc := by decide

/-- Two ticks left, one tick left, and an untimed wait. -/
theorem witness_TickCountsDownThenExpires :
    ({ sendingE11 1 2 with pending := [.tick] } : State).pending = .tick :: [] ∧
    2 ≤ (sendingE11 1 2).timerCnt ∧ expiring.timerCnt < 2 ∧ expiring.timerArmed = true ∧
    (session .responder .opened .recvWait).timerArmed = false := by decide

/-- P6: the budget (3, 4) of a `SEND`; the last tick before the failure and the failure itself are in range. -/
theorem witness_UnansweredFrameIsSentExactlyNTimes :
    let s := sendingE11 1 4
    s.eng.timed = true ∧ s.timerArmed = true ∧ s.attempts = 1 ∧ s.maxAttempts = 3 ∧ s.timeout = 4 ∧ s.timerCnt = 4 ∧
    s.pending = [] ∧ 11 < 3 * 4 := by decide

theorem witness_HeldFrameIsResentUnchangedAndCounted :
    expiring.eng.timed = true ∧
    ∃ t, step expiring = .next t ∧ t.eng = expiring.eng ∧ newOutputs expiring t = [.tx frameE11] :=
  ⟨rfl, _, rfl, rfl, by decide⟩

theorem witness_EveryStepKeepsTheInvariant : EngineInv expiring ∧ ∃ t, step expiring = .next t ∧ t.attempts = 2 :=
  ⟨expiring_inv, _, rfl, rfl⟩

theorem witness_ExactlyTheListedPairsOccur :
    (∃ t, runSteps 1 { station with pending := [.cmd ⟨0b00, 1, 1, 1, []⟩] } = .next t ∧ t.eng = .openRWaitSet) ∧
    1 < 2 ^ station.cfg.attW ∧ 1 < 2 ^ station.cfg.tmoW := ⟨⟨_, rfl, rfl⟩, by decide⟩

/-- The least `OPEN` runs from reset, whatever the parameters are: a program's first command does. -/
theorem test_open_from_reset :
    ∃ t, step { State.reset with pending := [.cmd ⟨0b00, 1, 1, 1, []⟩] } = .next t ∧ t.eng = .openRWaitSet :=
  ⟨_, execOpenOp_accepted (role := .responder) (n := 1) (k := 1) (by decide) budgetFits_unfixed rfl rfl, rfl⟩

/-- An edge, and the close without a budget that passes two edges at once. -/
theorem witness_PhaseEdges :
    let s := { session .initiator .opened .idle with maxAttempts := 0, pending := [.cmd (CmdMsg.bare 0b11)] }
    ControlLegal s ∧ (∃ t, step s = .next t ∧ t.phase = .closed) ∧
    ∀ rest, takeEvent s.eng false s.pending ≠ some (.reset, rest) :=
  ⟨⟨rfl, rfl⟩, ⟨_, rfl, rfl⟩, by intro rest h; cases h⟩

theorem witness_SequenceBitsAdvanceOnlyOnAcceptance :
    (∃ t, exec (.rr1 0x03) (sendingE11 1 4) = .next t ∧ t.txSeq ≠ (sendingE11 1 4).txSeq) ∧
    (∃ t, exec (.i0 0x03 [0x41] 0x41) (session .responder .opened .recvWait) = .next t ∧
      t.rxSeq ≠ (session .responder .opened .recvWait).rxSeq) ∧
    (∀ role n k, Instr.rr1 0x03 ≠ .openOp role n k) ∧
    ∃ t, tickStep (sendingE11 1 1) = .next t ∧ t.attempts = 2 :=
  ⟨⟨_, rfl, by decide⟩, ⟨_, rfl, by decide⟩, (by intro _ _ _ h; cases h), _, rfl, rfl⟩

theorem witness_OnlyOpenWritesBudgetAndRole :
    (∃ t, exec .close (session .initiator .opened .idle) = .next t ∧ t.phase = .closing) ∧
    (∀ role n k, Instr.close ≠ .openOp role n k) ∧
    (∃ t, exec (.openOp .responder 9 5) (session .initiator .opened .idle) = .next t ∧ t.maxAttempts = 3) ∧
    (session .initiator .opened .idle).phase ≠ .closed ∧ ∃ t, tickStep (sendingE11 3 1) = .next t ∧ t.eng = .idle :=
  ⟨⟨_, rfl, rfl⟩, (by intro _ _ _ h; cases h), ⟨_, rfl, rfl⟩, by decide, _, rfl, rfl⟩

/-- A step with the two outputs `RSP`, `TX` of an abort. -/
theorem witness_OutputsOfOneStep :
    ∃ t, step { sendingE11 1 4 with pending := [.cmd (CmdMsg.bare 0b11)] } = .next t ∧
      t.out = [.rsp .aborted, .tx [0x7E, 0x03, 0x0B, 0x08, 0x7E]] := ⟨_, rfl, by decide⟩

/-- A taken event and a held one that has an enabled event behind it. -/
theorem witness_OnlyEnabledEventsAreTaken :
    expiring.pending = .tick :: [] ∧
    (∃ t, step { sendingE11 1 4 with pending := [.cmd (CmdMsg.bare 0b10), .rxByte 0x7E] } = .next t ∧
      t.dec.st = .flagSeen) ∧
    (¬ ((sendingE11 1 4).eng = .idle ∨ ((CmdMsg.bare 0b10).code = 0b11 ∧
      ((sendingE11 1 4).eng = .sendWaitAck ∨ (sendingE11 1 4).eng = .recvWait)))) :=
  ⟨rfl, ⟨_, rfl, rfl⟩, by decide⟩

/-- One state for each clause. -/
theorem witness_StepRunsTheDecodedInstruction :
    (station.eng = .idle ∧ decodeCommand (CmdMsg.bare 0b10) = .ok .receive) ∧
    instrOfFrame 0x03 0x85 [] 0 = some (.rr1 0x03) ∧ instrOfFrame 0x03 0x00 [0x41] 0x41 = some (.i0 0x03 [0x41] 0x41) ∧
    (taking 0x7E ⟨.inPayload, 0x03, 0x00, false, [0x41, 0x41]⟩).dec.buf = [0x41] ++ [0x41] ∧
    (taking 0x7E ⟨.awaitEndS, 0x03, 0x85, false, []⟩).eng ≠ .idle ∧
    decodeSymbol [0x7D, 0x5E] = .ok (.escFlag, []) ∧ decodeSymbol [0x5E] = .ok (.literal 0x5E, []) :=
  ⟨⟨rfl, rfl⟩, rfl, rfl, rfl, by decide, rfl, rfl⟩

theorem witness_FrameOnTheLineRunsTheFrame :
    let s := (session .responder .opened .recvWait).deliver frameE11
    Instr.wf s.cfg.maxPayload (.i0 0x03 [0x41, 0x42] 0x03) = true ∧
    encode (.i0 0x03 [0x41, 0x42] 0x03) = .frame frameE11 ∧ s.eng ≠ .idle ∧ s.dec.st = .idle ∧
    s.pending = frameE11.map Event.rxByte ++ [] := by decide

/-- Each of the four refusals, and the two that a step can give. -/
theorem witness_RefusedExactlyOutsideTheDomain :
    exec (.openOp .initiator 3 0) station = .refused .timeoutZero ∧
    exec (.openOp .initiator 16 1) station = .refused .budgetTooWide ∧
    exec (.openOp .initiator 1 16) (sendingE11 1 4) = .refused .budgetTooWide ∧
    exec .receive (sendingE11 1 4) = .refused .commandNotEnabled ∧
    exec (.set 0x03) station = .refused .byteNotEnabled ∧
    step { station with pending := [.cmd ⟨0b00, 0, 3, 0, []⟩] } = .refused .timeoutZero ∧
    step { station with pending := [.cmd ⟨0b00, 0, 3, 16, []⟩] } = .refused .budgetTooWide :=
  ⟨rfl, rfl, rfl, rfl, rfl, rfl, rfl⟩

theorem witness_NothingStopsTheEngine :
    EngineInv expiring ∧ ∀ m, Event.cmd m ∈ expiring.pending → m.code = 0b00 →
      m.timeout ≠ 0 ∧ m.maxAttempts < 2 ^ expiring.cfg.attW ∧ m.timeout < 2 ^ expiring.cfg.tmoW :=
  ⟨expiring_inv, by intro m h; simp [expiring] at h⟩

theorem witness_ResetEventRestoresTheEngine :
    ({ sendingE11 1 4 with pending := [.reset, .rxByte 0x7E] } : State).pending = .reset :: [.rxByte 0x7E] := rfl

theorem witness_WithNoSessionOnlyOpenActs :
    station.phase = .closed ∧ station.eng = .idle ∧ station.timerArmed = false ∧
    (station.deliver [0x7E, 0x41]).pending = [(0x7E : Byte), 0x41].map Event.rxByte := by decide

/-- Two states that differ in every register the spec leaves unspecified in `Closed` and `Idle`, about to open a session. -/
theorem witness_UnspecifiedRegistersAreNeverSeen :
    let s := { station with pending := [.cmd ⟨0b00, 0, 3, 4, []⟩] }
    let t := { s with
      role := .responder, maxAttempts := 9, timeout := 9, timerCnt := 9, hold := frameE11
      dec := { s.dec with addr := 0x55, ctrl := 0x55 } }
    ControlLegal s ∧ AgreeOnSpecified s t ∧ ∃ s', step s = .next s' ∧ s'.eng = .openIWaitUa :=
  ⟨⟨rfl, rfl⟩,
   ⟨rfl, rfl, (fun h => absurd rfl h), (fun h => absurd rfl h), (fun h => absurd rfl h), rfl, rfl, rfl, rfl,
    (fun h => by cases h), (fun h => by cases h), rfl, (fun h => by cases h), (fun h => by cases h), rfl, rfl, rfl, rfl, rfl⟩,
   _, rfl, rfl⟩

theorem witness_StatusOutputs :
    station.phase = .closed ∧ (session .initiator .establishing .openIWaitUa).phase = .establishing ∧
    (sendingE11 1 4).phase = .opened ∧ (session .responder .closing .closeRWaitUa).phase = .closing := by decide

/-- The longest payload, from a Responder to an Initiator, number 1. -/
theorem witness_PayloadCrossesTheLink :
    let A := { session .responder .opened .idle with txSeq := 1 }
    let B := { session .initiator .opened .recvWait with rxSeq := 1 }
    A.phase = .opened ∧ A.eng = .idle ∧ A.pending = [] ∧ 1 ≤ A.maxAttempts ∧ B.eng = .recvWait ∧ B.pending = [] ∧
    B.rxSeq = A.txSeq ∧ longest.length ≤ A.cfg.maxPayload ∧ longest.length ≤ B.cfg.maxPayload ∧
    A.dec.st = .idle ∧ B.dec.st = .idle := by decide

theorem witness_RepeatedFrameIsDeliveredOnce :
    let B := session .responder .opened .recvWait
    B.phase = .opened ∧ B.eng = .recvWait ∧ B.pending = [] ∧ longest.length ≤ B.cfg.maxPayload ∧ B.dec.st = .idle ∧
    isAddress 0x03 = true ∧ (0x00 : Byte) = ctrlI B.rxSeq := by decide

theorem witness_OpenHandshakeOpensBothStations :
    station.phase = .closed ∧ station.eng = .idle ∧ station.pending = [] ∧ 1 ≤ 1 ∧
    1 < 2 ^ station.cfg.attW ∧ 1 < 2 ^ station.cfg.tmoW := by decide

theorem witness_CloseHandshakeClosesBothStations :
    let A := session .initiator .opened .idle
    let B := session .responder .opened .idle
    A.phase = .opened ∧ A.eng = .idle ∧ A.role = .initiator ∧ A.pending = [] ∧ 1 ≤ A.maxAttempts ∧
    B.phase = .opened ∧ B.eng = .idle ∧ B.role = .responder ∧ B.pending = [] ∧ A.dec.st = .idle ∧ B.dec.st = .idle := by
  decide

end Sys2Proof.Tests
end

section
/-! Every step keeps the engine's invariant. The invariant's parts that every wait asks alike (`RegistersLegal`) are
separated from those that depend on the wait; a step then ends in one of two ways: in a state whose timer is off, or by
a transmission in a timed wait. -/

namespace Sys2Proof.Machine

/-! The decoder. -/

/-- R25 to R27: the decoder's registers are legal and its buffer is within its capacity. -/
def Decoder.Sound (maxPayload : Nat) (d : Decoder) : Prop := d.Legal ∧ d.buf.length ≤ maxPayload + 1

/-- The decoder as one byte leaves it, before a completed symbol or frame is acted on. -/
def Scan.decoder : Scan → Decoder
  | .needMore d | .framingError d | .symbol _ d | .frame _ _ _ _ d => d

section decoder

variable {maxPayload : Nat} {d : Decoder}

/-- A decoder outside any frame is legal (R24, R26). -/
theorem Decoder.Legal.of_unescaped (he : d.esc = false) (hs : d.st = .idle ∨ d.st = .flagSeen) : d.Legal := by
  rcases hs with hs | hs <;> simp [Decoder.Legal, he, hs]

/-- R26: an escape byte is pending only in a protected region. -/
theorem Decoder.Legal.esc_false (h : d.Legal) (hs : d.st ≠ .inPayload) : d.esc = false :=
  Bool.eq_false_iff.2 fun he => hs (h.1 he)

/-- One byte keeps the decoder's registers legal and its buffer within its capacity (R102 to R108, R110). -/
theorem scanByte_sound (h : d.Sound maxPayload) (b : Byte) : (scanByte b d).decoder.Sound maxPayload := by
  obtain ⟨hl, hb⟩ := h
  cases hs : d.st with
  | idle =>
    have he := hl.esc_false (by simp [hs])
    simp only [scanByte, hs, scanIdle]
    split
    · exact ⟨.of_unescaped he (.inr rfl), hb⟩
    · exact ⟨.of_unescaped he (.inl rfl), hb⟩
  | flagSeen =>
    have he := hl.esc_false (by simp [hs])
    simp only [scanByte, hs, scanFlagSeen]
    split
    · exact ⟨.of_unescaped he (.inr rfl), hb⟩
    · split
      · exact ⟨⟨by simp [Scan.decoder, he], ‹_›⟩, hb⟩
      · exact ⟨.of_unescaped he (.inl rfl), hb⟩
  | addressSeen =>
    have he := hl.esc_false (by simp [hs])
    have ha : isAddress d.addr = true := by simpa [hs] using hl.2
    simp only [scanByte, hs, scanAddressSeen]
    split
    · exact ⟨.of_unescaped he (.inr rfl), hb⟩
    · split
      · exact ⟨⟨by simp [Scan.decoder, he], ha, ‹_›⟩, hb⟩
      · exact ⟨.of_unescaped he (.inl rfl), hb⟩
  | controlSeen =>
    have he := hl.esc_false (by simp [hs])
    have ha : isAddress d.addr = true ∧ (classify d.ctrl).isSome = true := by simpa [hs] using hl.2
    simp only [scanByte, hs, scanControlSeen]
    split
    · rename_i hok
      exact ⟨⟨fun _ => rfl, ha.1, (Bool.and_eq_true_iff.1 hok).2⟩, Nat.zero_le _⟩
    · split
      · rename_i hok
        exact ⟨⟨by simp [Scan.decoder, he], ha.1, (Bool.and_eq_true_iff.1 hok).2⟩, hb⟩
      · exact ⟨.of_unescaped he (.inl rfl), hb⟩
  | awaitEndS =>
    have he := hl.esc_false (by simp [hs])
    simp only [scanByte, hs, scanAwaitEndS]
    split <;> exact ⟨.of_unescaped he (.inl rfl), hb⟩
  | inPayload =>
    have ha : isAddress d.addr = true ∧ isInf d.ctrl = true := by simpa [hs] using hl.2
    have hin (es : Bool) : Decoder.Sound maxPayload { d with st := .inPayload, esc := es } := ⟨⟨fun _ => rfl, ha⟩, hb⟩
    simp only [scanByte, hs, scanInPayload]
    split
    · split
      · exact ⟨.of_unescaped rfl (.inl rfl), Nat.zero_le _⟩
      · exact hin false
    · rename_i he
      have he := Bool.eq_false_iff.2 he
      split
      · unfold closeI
        dsimp only
        split
        · exact ⟨.of_unescaped he (.inl rfl), hb⟩
        · exact ⟨.of_unescaped he (.inl rfl), Nat.zero_le _⟩
      · split
        · exact hin true
        · exact ⟨hl, hb⟩

/-- `Accumulate` keeps them too (R109). -/
theorem accumulate_sound (h : d.Sound maxPayload) (v : Byte) : (accumulate maxPayload v d).1.Sound maxPayload := by
  refine ⟨?_, accumulate_capacity h.2 v⟩
  by_cases hf : d.buf.length = maxPayload + 1
  · rw [accumulate_full hf]
    exact Decoder.Legal.of_unescaped rfl (.inl rfl)
  · rw [accumulate_room hf]
    exact h.1

theorem decodeByte_sound (h : d.Sound maxPayload) (b : Byte) : (decodeByte maxPayload b d).1.Sound maxPayload := by
  have hs := scanByte_sound h b
  unfold decodeByte
  split <;> rename_i heq <;> rw [heq] at hs
  · exact hs
  · exact hs
  · exact accumulate_sound hs _
  · exact hs

theorem feed_sound (h : d.Sound maxPayload) (bytes : List Byte) : (feed maxPayload bytes d).Sound maxPayload := by
  induction bytes generalizing d with
  | nil => exact h
  | cons b bytes ih => exact ih (decodeByte_sound h b)

end decoder

/-! The registers that every wait treats alike. -/

/-- The part of the invariant that speaks of no particular wait: R16, R20 and R8 on the budget, R43 and R44 on the
buffers, R25 to R27 on the decoder. -/
structure RegistersLegal (s : State) : Prop where
  spent : s.attempts ≤ s.maxAttempts
  timeout : s.phase ≠ .closed → 1 ≤ s.timeout
  widths : WidthsHold s
  hold : s.hold.length ≤ holdCapacity s.cfg
  decoder : s.dec.Sound s.cfg.maxPayload

section registers

variable {s : State}

theorem EngineInv.registers (h : EngineInv s) : RegistersLegal s := by
  obtain ⟨hh, hd⟩ := (Memory.wf_iff s).1 h.memory
  obtain ⟨hspent, htimeout, -⟩ := h.budget
  exact ⟨hspent, htimeout, h.widths, hh, h.decoder, hd⟩

theorem RegistersLegal.memory (r : RegistersLegal s) : Memory.wf s = true :=
  (Memory.wf_iff s).2 ⟨r.hold, r.decoder.2⟩

/-- No part of `RegistersLegal` reads the operation state, the timer's flag, the sequence bits or the outputs; the phase
matters only in that a session has a timeout. -/
theorem RegistersLegal.with_phase (r : RegistersLegal s) {p : Phase} (hp : p ≠ .closed → s.phase ≠ .closed)
    {e : Eng} {a : Bool} {x y : Bit} {o : List Output} :
    RegistersLegal { s with phase := p, eng := e, timerArmed := a, txSeq := x, rxSeq := y, out := o } where
  spent := r.spent
  timeout h := r.timeout (hp h)
  widths := ⟨r.widths.maxAttempts, r.widths.attempts, r.widths.timeout, r.widths.timerCnt⟩
  hold := r.hold
  decoder := r.decoder

/-- R118, R123, R130: an operation loads its frame, which fits `S.hold`, and starts counting. -/
theorem RegistersLegal.with_hold (r : RegistersLegal s) {f : List Byte} (hf : f.length ≤ holdCapacity s.cfg) :
    RegistersLegal { s with hold := f, attempts := 0 } where
  spent := Nat.zero_le _
  timeout := r.timeout
  widths := ⟨r.widths.maxAttempts, Nat.two_pow_pos _, r.widths.timeout, r.widths.timerCnt⟩
  hold := hf
  decoder := r.decoder

/-- R117: an `OPEN` whose budget fits the registers. -/
theorem RegistersLegal.openSession (r : RegistersLegal s) {role : Role} {n k : Nat} (hw : budgetFits s.cfg n k = true)
    (hk : 1 ≤ k) : RegistersLegal (openSession role n k s) where
  spent := Nat.zero_le _
  timeout _ := hk
  widths := ⟨((budgetFits_iff _ _ _).1 hw).1, Nat.two_pow_pos _, ((budgetFits_iff _ _ _).1 hw).2, r.widths.timerCnt⟩
  hold := r.hold
  decoder := ⟨Decoder.Legal.of_unescaped rfl (.inl rfl), Nat.zero_le _⟩

theorem encodeS_fits (a c : Byte) (cfg : Config) : (encodeS a c).length ≤ holdCapacity cfg := by
  simp [encodeS_length, holdCapacity]

theorem encodeI_fits (a c : Byte) {p : List Byte} {cfg : Config} (hp : p.length ≤ cfg.maxPayload) :
    (encodeI a c p).length ≤ holdCapacity cfg := by
  have := encodeI_length_le a c p
  simp [holdCapacity]; omega

end registers

/-! What the control part says of a wait (R14). -/

section control

variable {s : State}

theorem ControlLegal.timer_off {e : Eng} (h : ControlLegal s) (he : s.eng = e) (hn : e.timed = false) :
    s.timerArmed = false := by rw [h.2, he, hn]

/-- An operation waits only in a session. -/
theorem ControlLegal.phase_ne_closed {e : Eng} (h : ControlLegal s) (he : s.eng = e) (hn : e ≠ .idle) :
    s.phase ≠ .closed := by
  obtain ⟨hl, -⟩ := h
  intro hp
  rw [hp, he] at hl
  cases e <;> simp [legalPair] at hl hn

theorem ControlLegal.phase_opened (h : ControlLegal s) (he : s.eng = .sendWaitAck ∨ s.eng = .recvWait) :
    s.phase = .opened := by
  obtain ⟨hl, -⟩ := h
  cases hp : s.phase <;> rcases he with he | he <;> simp_all [legalPair]

/-- R14: the closing Responder's two waits occur in the same phase. -/
theorem legalPair_closeRWaitUa (p : Phase) : legalPair p .closeRWaitUa = legalPair p .closeRWaitDisc := by
  cases p <;> rfl

end control

/-! The two ways a step ends. -/

section landing

variable {s : State}

/-- A state without a running timer has the invariant when its registers are legal and its pair and role are. -/
theorem RegistersLegal.inv_of_timer_off (r : RegistersLegal s) (hl : legalPair s.phase s.eng = true)
    (hn : s.eng.timed = false) (ha : s.timerArmed = false) (hr : RoleLegal s) : EngineInv s where
  control := ⟨hl, ha.trans hn.symm⟩
  budget := ⟨r.spent, r.timeout, by simp [ha]⟩
  widths := r.widths
  memory := r.memory
  hold := by
    unfold HoldLegal
    cases he : s.eng <;> simp_all [Eng.timed]
  role := hr
  decoder := r.decoder.1

/-- R162: the end of an operation. -/
theorem RegistersLegal.inv_complete (r : RegistersLegal s) {result : Result}
    (hp : s.phase = .closed ∨ s.phase = .opened) (ha : s.timerArmed = false) : EngineInv (complete result s) := by
  have hc : RegistersLegal (complete result s) := r.with_phase id
  refine hc.inv_of_timer_off ?_ rfl ha trivial
  rcases hp with hp | hp <;> simp [hp, legalPair]

/-- R146: a transmission under the budget in a timed wait. -/
theorem RegistersLegal.inv_transmit (r : RegistersLegal s) (hl : legalPair s.phase s.eng = true)
    (ht : s.eng.timed = true) (hb : s.attempts < s.maxAttempts) (hh : HoldLegal s) (hr : RoleLegal s) :
    EngineInv (transmit s) where
  control := ⟨hl, ht.symm⟩
  budget := by
    have hp : 1 ≤ s.timeout := r.timeout (by intro hp; cases he : s.eng <;> simp_all [legalPair, Eng.timed])
    exact ⟨hb, fun _ => hp, fun _ => ⟨Nat.succ_pos _, hp, le_rfl⟩⟩
  widths := ⟨r.widths.maxAttempts, lt_of_le_of_lt hb r.widths.maxAttempts, r.widths.timeout, r.widths.timeout⟩
  memory := (Memory.wf_iff _).2 ⟨r.hold, r.decoder.2⟩
  hold := hh
  role := hr
  decoder := r.decoder.1

end landing

/-- The invariant reads neither the presented events nor the outputs, and of the decoder only that it is sound. -/
theorem EngineInv.with_surroundings {s : State} (h : EngineInv s) {d : Decoder} (hd : d.Sound s.cfg.maxPayload)
    {l : List Event} {o : List Output} : EngineInv { s with dec := d, pending := l, out := o } where
  control := h.control
  budget := h.budget
  widths := ⟨h.widths.maxAttempts, h.widths.attempts, h.widths.timeout, h.widths.timerCnt⟩
  memory := (Memory.wf_iff _).2 ⟨h.registers.hold, hd.2⟩
  hold := h.hold
  role := h.role
  decoder := hd.1

/-- R148: a tick before the deadline. -/
theorem EngineInv.count_down {s : State} (h : EngineInv s) (ha : s.timerArmed = true) (hc : 2 ≤ s.timerCnt) :
    EngineInv { s with timerCnt := s.timerCnt - 1 } where
  control := h.control
  budget := by
    obtain ⟨hspent, htimeout, harmed⟩ := h.budget
    obtain ⟨hattempts, -, hle⟩ := harmed ha
    exact ⟨hspent, htimeout, fun _ => ⟨hattempts, Nat.le_sub_of_add_le hc, (Nat.sub_le ..).trans hle⟩⟩
  widths := ⟨h.widths.maxAttempts, h.widths.attempts, h.widths.timeout, (Nat.sub_le ..).trans_lt h.widths.timerCnt⟩
  memory := h.memory
  hold := h.hold
  role := h.role
  decoder := h.decoder

/-! Every effect keeps the invariant. -/

/-- Each effect ends in one of the two ways above, or changes nothing that the invariant reads. What a symbol leaves in
the decoder is not part of `Effect` and is `takeSymbol_keeps_inv`. -/
theorem Effect.keeps_inv {o : Option Instr} {s t : State} (h : Effect o s t) (hs : EngineInv s)
    (hn : ∀ i, o = some i → isSymbol i = false) : EngineInv t := by
  have r := hs.registers
  have hc := hs.control
  cases h with
  | unchanged => exact hs
  | symbolTaken d hi => simp [hn _ rfl] at hi
  | answered | infoRejected | infoDuplicate => exact hs.with_surroundings r.decoder
  | openSends hw _ _ hk hm =>
    have r' := (r.openSession (role := .initiator) hw hk).with_hold (encodeS_fits 0x03 0x03 _)
    exact r'.with_phase (fun _ => nofun) |>.inv_transmit rfl rfl hm rfl rfl
  | openFails hw _ _ hk =>
    have r' := (r.openSession (role := .initiator) hw hk).with_hold (encodeS_fits 0x03 0x03 _)
    exact r'.with_phase (absurd rfl) |>.inv_complete (.inl rfl) rfl
  | openWaits hw _ _ hk =>
    exact (r.openSession hw hk).with_phase (fun _ => nofun) |>.inv_of_timer_off rfl rfl rfl rfl
  | setAnswered he =>
    have hp := hc.phase_ne_closed he nofun
    exact r.with_phase (fun _ => hp) |>.inv_complete (.inr rfl) (hc.timer_off he rfl)
  | uaOpens he =>
    have hp := hc.phase_ne_closed he nofun
    exact r.with_phase (fun _ => hp) |>.inv_complete (.inr rfl) rfl
  | uaCloses he => exact r.with_phase (absurd rfl) |>.inv_complete (.inl rfl) (hc.timer_off he rfl)
  | peerClosed he => exact r.inv_complete (.inr (hc.phase_opened (.inr he))) (hc.timer_off he rfl)
  | discCloses | tickFailsOpen | tickFailsClose =>
    exact r.with_phase (absurd rfl) |>.inv_complete (.inl rfl) rfl
  | discAnswered he =>
    have hl : legalPair s.phase .closeRWaitUa = true := by rw [legalPair_closeRWaitUa, ← he]; exact hc.1
    have hr : s.role = .responder := by simpa [RoleLegal, he] using hs.role
    exact r.with_phase id |>.inv_of_timer_off hl rfl (hc.timer_off he rfl) hr
  | acked he | rejFails he | tickFailsSend _ _ _ he =>
    exact r.with_phase id |>.inv_complete (.inr (hc.phase_opened (.inl he))) rfl
  | rejResends he _ hl => exact r.with_phase id |>.inv_transmit hc.1 (by simp [he, Eng.timed]) hl hs.hold hs.role
  | infoAccepted he =>
    exact r.with_phase id |>.inv_complete (.inr (hc.phase_opened (.inr he))) (hc.timer_off he rfl)
  | sendSends _ hp hl hm =>
    have r' := r.with_hold (encodeI_fits (addrOf s.role (.info s.txSeq)) (ctrlI s.txSeq) hl)
    exact r'.with_phase id |>.inv_transmit (by simp [hp, legalPair]) rfl hm ⟨_, hl, rfl⟩ trivial
  | sendFails he hp hl =>
    exact (r.with_hold (encodeI_fits _ _ hl)).with_phase id |>.inv_complete (.inr hp) (hc.timer_off he rfl)
  | receiveWaits he hp =>
    exact r.with_phase id |>.inv_of_timer_off (by simp [hp, legalPair]) rfl (hc.timer_off he rfl) trivial
  | closeWaits he hp hr =>
    exact r.with_phase (fun _ => by simp [hp]) |>.inv_of_timer_off rfl rfl (hc.timer_off he rfl) hr
  | closeSends _ hp hr hm =>
    have r' := r.with_hold (encodeS_fits 0x03 0x0B _)
    exact r'.with_phase (fun _ => by simp [hp]) |>.inv_transmit rfl rfl hm rfl hr
  | closeFails he =>
    exact (r.with_hold (encodeS_fits ..)).with_phase (absurd rfl) |>.inv_complete (.inl rfl) (hc.timer_off he rfl)
  | abortWaits he hr =>
    exact r.with_phase (fun _ => by simp [hc.phase_opened he]) |>.inv_of_timer_off rfl rfl rfl hr
  | abortSends he hr hm =>
    have r' := r.with_hold (encodeS_fits 0x03 0x0B _)
    exact r'.with_phase (fun _ => by simp [hc.phase_opened he]) |>.inv_transmit rfl rfl hm rfl hr
  | abortFails =>
    exact (r.with_hold (encodeS_fits ..)).with_phase (absurd rfl) |>.inv_complete (.inl rfl) rfl
  | tickCounts ha hcnt => exact hs.count_down ha hcnt
  | tickResends ha _ hl => exact r.with_phase id |>.inv_transmit hc.1 (hc.2 ▸ ha) hl hs.hold hs.role

/-! Every step keeps the invariant. -/

theorem takeSymbol_keeps_inv {bytes : List Byte} {s t : State} (hs : EngineInv s) (h : takeSymbol bytes s = .next t) :
    EngineInv t := by
  obtain ⟨-, rfl⟩ := takeSymbol_next h
  exact hs.with_surroundings (feed_sound hs.registers.decoder bytes)

theorem exec_keeps_inv {i : Instr} {s t : State} (hs : EngineInv s) (h : exec i s = .next t) : EngineInv t := by
  by_cases hi : isSymbol i = true
  · cases i with
    | escFlag | escEsc | literal v => exact takeSymbol_keeps_inv hs h
    | _ => cases hi
  · exact (exec_effect h).keeps_inv hs (by rintro _ ⟨⟩; simpa using hi)

theorem rxStep_keeps_inv {b : Byte} {s t : State} (hs : EngineInv s) (h : rxStep b s = .next t) : EngineInv t := by
  have hd := scanByte_sound hs.registers.decoder b
  have hdec {d : Decoder} (hsd : (scanByte b s.dec).decoder = d) : EngineInv { s with dec := d } :=
    hs.with_surroundings (hsd ▸ hd)
  rcases rxStep_next h with ⟨d, hsc | hsc, rfl⟩ | ⟨i, d, hsc, hx⟩ | ⟨a, c, p, x, d, hsc, ⟨i, -, hx⟩ | ⟨-, rfl⟩⟩
  · exact hdec (by rw [hsc]; rfl)
  · exact hdec (by rw [hsc]; rfl)
  · exact exec_keeps_inv (hdec (by rw [hsc]; rfl)) hx
  · exact exec_keeps_inv (hdec (by rw [hsc]; rfl)) hx
  · exact hdec (by rw [hsc]; rfl)

/-- A message that runs runs its operation (R73). -/
theorem cmdStep_next {m : CmdMsg} {s t : State} (h : cmdStep m s = .next t) :
    ∃ i, decodeCommand m = .ok i ∧ exec i s = .next t := by
  unfold cmdStep at h
  split at h
  · exact ⟨_, ‹_›, h⟩
  · cases h

/-- R31: the registers after `Reset`. -/
theorem resetStep_inv (s : State) : EngineInv (resetStep s) := by
  have r : RegistersLegal (resetStep s) :=
    { spent := Nat.zero_le _
      timeout := fun h => absurd rfl h
      widths := ⟨Nat.two_pow_pos _, Nat.two_pow_pos _, Nat.two_pow_pos _, Nat.two_pow_pos _⟩
      hold := Nat.zero_le _
      decoder := ⟨.of_unescaped rfl (.inl rfl), Nat.zero_le _⟩ }
  exact r.inv_of_timer_off rfl rfl rfl trivial

theorem handle_keeps_inv {e : Event} {s t : State} (hs : EngineInv s) (h : handle e s = .next t) : EngineInv t := by
  cases e with
  | reset => cases h; exact resetStep_inv s
  | cmd m =>
    obtain ⟨i, -, hx⟩ := cmdStep_next h
    exact exec_keeps_inv hs hx
  | rxByte b => exact rxStep_keeps_inv hs h
  | tick => exact (tickStep_effect h).keeps_inv hs nofun

/-- Settles O39: each event's effect keeps the invariant, and so does waiting. -/
theorem everyStepKeepsTheInvariant : Obligations.EveryStepKeepsTheInvariant := by
  intro s t hs h
  obtain rfl | ⟨e, rest, -, -, hh⟩ := step_next h
  · exact hs
  · exact handle_keeps_inv (hs.with_surroundings hs.registers.decoder) hh

end Sys2Proof.Machine
end

section
/-! What an instruction leaves as it is, which events are taken, and where an instruction is refused. -/

namespace Sys2Proof.Machine

/-! The role and the budget. -/

/-- R9: the role and the retry budget are written by an accepted `OPEN` alone. -/
theorem Effect.keeps_budget {o : Option Instr} {s t : State} (h : Effect o s t) :
    (t.role = s.role ∧ t.maxAttempts = s.maxAttempts ∧ t.timeout = s.timeout) ∨
    (s.phase = .closed ∧ ∃ role n k, o = some (.openOp role n k)) := by
  cases h with
  | openSends _ _ hp | openFails _ _ hp | openWaits _ _ hp => exact .inr ⟨hp, _, _, _, rfl⟩
  | _ => exact .inl ⟨rfl, rfl, rfl⟩

/-- Settles O44: of all the effects only that of an accepted `OPEN` writes the three registers. -/
theorem onlyOpenWritesBudgetAndRole : Obligations.OnlyOpenWritesBudgetAndRole := by
  constructor
  · intro i s t h hopen
    refine (exec_effect h).keeps_budget.resolve_right ?_
    rintro ⟨hp, role, n, k, ⟨⟩⟩
    exact hopen.elim (fun hne => hne _ _ _ rfl) (fun hne => hne hp)
  · intro s t h
    exact (tickStep_effect h).keeps_budget.resolve_right (by simp)

/-! Which events are taken. -/

theorem exec_pending {i : Instr} {s t : State} (h : exec i s = .next t) : t.pending = s.pending :=
  (exec_surroundings h).2.1

/-- Handling an event presents and withdraws nothing (R7). -/
theorem handle_pending {e : Event} {s t : State} (h : handle e s = .next t) : t.pending = s.pending := by
  cases e with
  | reset => cases h; rfl
  | cmd m =>
    obtain ⟨i, -, hx⟩ := cmdStep_next h
    exact (exec_pending hx :)
  | rxByte b =>
    rcases rxStep_next h with ⟨d, -, rfl⟩ | ⟨i, d, -, hx⟩ | ⟨a, c, p, x, d, -, ⟨i, -, hx⟩ | ⟨-, rfl⟩⟩
    · rfl
    · exact (exec_pending hx :)
    · exact (exec_pending hx :)
    · rfl
  | tick =>
    rcases tickStep_next h with ⟨-, rfl⟩ | ⟨-, -, rfl⟩ | ⟨-, -, hx⟩
    · rfl
    · rfl
    · exact (tryTransmit_surroundings hx).2.1

/-- R7: an event that is not enabled stays the first of what the environment holds. -/
theorem step_holds_disabled {s t : State} {e : Event} {rest : List Event} (hp : s.pending = e :: rest)
    (he : enabled s.eng e = false) (h : step s = .next t) : t.pending.head? = some e := by
  obtain rfl | ⟨e', rest', htake, -, hh⟩ := step_next h
  · simp [hp]
  · rw [hp, takeEvent_held he] at htake
    obtain ⟨r, -, hr⟩ := Option.map_eq_some_iff.1 htake
    cases hr
    simp [handle_pending hh]

/-- R183: the engine waits as it is while what is presented is not enabled. -/
theorem step_waits {s : State} (h : ∀ e ∈ s.pending, enabled s.eng e = false) : step s = .next s := by
  simp [step, takeEvent_none_of_disabled h]

/-- Settles O46: an enabled event at the front is taken, one that is not is held. -/
theorem onlyEnabledEventsAreTaken : Obligations.OnlyEnabledEventsAreTaken := by
  intro s e rest hp taken
  have henabled : taken ↔ enabled s.eng e = true := by
    cases e with
    | reset | tick => simp [taken, enabled]
    | rxByte b => exact (enabled_rxByte s.eng b).symm
    | cmd m => exact (enabled_cmd s.eng m).symm
  rw [henabled, Bool.not_eq_true]
  refine ⟨step_head hp, fun he hrest => step_waits ?_, fun he t => step_holds_disabled hp he⟩
  simpa [hp, hrest] using he

/-! Refusals. -/

section refusals

variable {s : State} {r : Refusal}

/-- R117, U9, U14, U10: where `OPEN` is refused, each name behind the ones before it. -/
theorem execOpenOp_refused_iff {role : Role} {n k : Nat} :
    execOpenOp role n k s = .refused r ↔
      (r = .timeoutZero ∧ k = 0) ∨
      (r = .budgetTooWide ∧ 1 ≤ k ∧ (2 ^ s.cfg.attW ≤ n ∨ 2 ^ s.cfg.tmoW ≤ k)) ∨
      (r = .commandNotEnabled ∧ (1 ≤ k ∧ n < 2 ^ s.cfg.attW ∧ k < 2 ^ s.cfg.tmoW) ∧ s.eng ≠ .idle) := by
  by_cases hk : k = 0
  · simp [execOpenOp, hk, eq_comm (a := r)]
  have hk1 : 1 ≤ k := Nat.one_le_iff_ne_zero.2 hk
  cases hw : budgetFits s.cfg n k with
  | false =>
    have hwide : 2 ^ s.cfg.attW ≤ n ∨ 2 ^ s.cfg.tmoW ≤ k := by simpa [budgetFits, imp_iff_not_or] using hw
    have hunfit : ¬ (n < 2 ^ s.cfg.attW ∧ k < 2 ^ s.cfg.tmoW) := by omega
    simp [execOpenOp_tooWide hk1 hw, hk, hk1, hwide, hunfit, eq_comm (a := r)]
  | true =>
    have hfit := (budgetFits_iff _ _ _).1 hw
    have hnarrow : ¬ (2 ^ s.cfg.attW ≤ n ∨ 2 ^ s.cfg.tmoW ≤ k) := by omega
    by_cases he : s.eng = .idle
    · by_cases hp : s.phase = .closed
      · rw [execOpenOp_accepted hk1 hw he hp]
        cases role <;> simp [hk, hnarrow, he, startOpenI, startOpenR, tryTransmit_not_refused]
      · simp [execOpenOp, hk, hw, he, hp, hnarrow]
    · simp [execOpenOp, hk, hk1, hw, he, hfit, hnarrow, eq_comm (a := r)]

theorem execSend_refused_iff {p : List Byte} :
    execSend p s = .refused r ↔ r = .commandNotEnabled ∧ s.eng ≠ .idle := by
  unfold execSend
  split
  · simp [*, eq_comm (a := r)]
  · split
    · simp_all
    · split <;> simp_all [tryTransmit_not_refused]

theorem execReceive_refused_iff : execReceive s = .refused r ↔ r = .commandNotEnabled ∧ s.eng ≠ .idle := by
  unfold execReceive
  split
  · simp [*, eq_comm (a := r)]
  · split <;> simp_all

theorem startClose_not_refused : startClose s ≠ .refused r := by
  unfold startClose
  split
  · exact tryTransmit_not_refused r
  · simp [startCloseR]

/-- U10: `CLOSE` is enabled also where it aborts an operation (R128). -/
theorem execClose_refused_iff :
    execClose s = .refused r ↔
      r = .commandNotEnabled ∧ s.eng ≠ .idle ∧ s.eng ≠ .sendWaitAck ∧ s.eng ≠ .recvWait := by
  unfold execClose
  split
  · split <;> simp [*, startClose_not_refused]
  · split
    · rename_i hab
      have he : s.eng = .sendWaitAck ∨ s.eng = .recvWait := by simpa [Eng.abortable] using hab
      rcases he with he | he <;> simp [he, startClose_not_refused]
    · simp_all [Eng.abortable, eq_comm (a := r)]

/-- U11: with no operation waiting, frames and symbols are refused. -/
theorem exec_refused_of_idle {i : Instr} (hi : isHostOp i = false) (he : s.eng = .idle) :
    exec i s = .refused .byteNotEnabled := by
  cases i with
  | openOp role n k | send p | receive | close => cases hi
  | set a => simp [exec, execSet, he]
  | ua a => simp [exec, execUa, he]
  | disc a => simp [exec, execDisc, he]
  | rr0 a => simp [exec, execRr0, receiveRr, he]
  | rr1 a => simp [exec, execRr1, receiveRr, he]
  | rej0 a => simp [exec, execRej0, receiveRej, he]
  | rej1 a => simp [exec, execRej1, receiveRej, he]
  | i0 a p x => simp [exec, execI0, receiveInfo, he]
  | i1 a p x => simp [exec, execI1, receiveInfo, he]
  | escFlag | escEsc | literal v => exact if_pos he

theorem receiveRr_not_refused {n : Bit} (he : s.eng ≠ .idle) : receiveRr n s ≠ .refused r := by
  unfold receiveRr
  split
  · contradiction
  · split <;> simp
  all_goals simp

theorem receiveRej_not_refused {n : Bit} (he : s.eng ≠ .idle) : receiveRej n s ≠ .refused r := by
  unfold receiveRej
  split
  · contradiction
  · split <;> simp [tryTransmit_not_refused]
  all_goals simp

theorem receiveInfo_not_refused {n : Bit} {p : List Byte} {x : Byte} (he : s.eng ≠ .idle) :
    receiveInfo n p x s ≠ .refused r := by
  unfold receiveInfo
  split
  · contradiction
  all_goals simp

theorem takeSymbol_not_refused {bytes : List Byte} (he : s.eng ≠ .idle) : takeSymbol bytes s ≠ .refused r := by
  simp [takeSymbol_waiting he]

/-- R7: while an operation waits, frames and symbols are not refused. -/
theorem exec_not_refused_of_waiting {i : Instr} (hi : isHostOp i = false) (he : s.eng ≠ .idle) :
    exec i s ≠ .refused r := by
  cases i with
  | openOp role n k | send p | receive | close => cases hi
  | set a | ua a | disc a =>
    simp only [exec, execSet, execUa, execDisc]
    split
    · contradiction
    all_goals simp
  | rr0 a | rr1 a => exact receiveRr_not_refused he
  | rej0 a | rej1 a => exact receiveRej_not_refused he
  | i0 a p x | i1 a p x => exact receiveInfo_not_refused he
  | escFlag | escEsc | literal v => exact takeSymbol_not_refused he

theorem exec_refused_iff_of_not_hostOp {i : Instr} (hi : isHostOp i = false) :
    exec i s = .refused r ↔ r = .byteNotEnabled ∧ s.eng = .idle := by
  by_cases he : s.eng = .idle
  · simp [exec_refused_of_idle hi he, he, eq_comm (a := r)]
  · simp [exec_not_refused_of_waiting hi he, he]

/-- A refusal of an instruction, the meanings taken together (R7, U9 to U11, U14). -/
theorem exec_refused_iff (i : Instr) (s : State) (r : Refusal) :
    exec i s = .refused r ↔
      (r = .timeoutZero ∧ ∃ role n, i = .openOp role n 0) ∨
      (r = .budgetTooWide ∧ ∃ role n t, i = .openOp role n t ∧ 1 ≤ t ∧ (2 ^ s.cfg.attW ≤ n ∨ 2 ^ s.cfg.tmoW ≤ t)) ∨
      (r = .commandNotEnabled ∧ isHostOp i = true ∧
        (∀ role n t, i = .openOp role n t → 1 ≤ t ∧ n < 2 ^ s.cfg.attW ∧ t < 2 ^ s.cfg.tmoW) ∧ s.eng ≠ .idle ∧
        (i = .close → s.eng ≠ .sendWaitAck ∧ s.eng ≠ .recvWait)) ∨
      (r = .byteNotEnabled ∧ isHostOp i = false ∧ s.eng = .idle) := by
  cases i with
  | openOp role n k =>
    rw [exec, execOpenOp_refused_iff]
    simp [isHostOp]
  | send p => rw [exec, execSend_refused_iff]; simp [isHostOp]
  | receive => rw [exec, execReceive_refused_iff]; simp [isHostOp]
  | close => rw [exec, execClose_refused_iff]; simp [isHostOp]
  | _ => rw [exec_refused_iff_of_not_hostOp rfl]; simp [isHostOp]

/-! A step refuses only what it takes (R7). -/

/-- A completed frame is an instruction of the formats S and I. -/
theorem instrOfFrame_not_hostOp {a c x : Byte} {p : List Byte} {i : Instr} (h : instrOfFrame a c p x = some i) :
    isHostOp i = false := by
  obtain ⟨k, -, rfl⟩ := Option.map_eq_some_iff.1 h
  cases k with
  | set | ua | disc => rfl
  | rr n | rej n | info n => rcases bit_cases n with rfl | rfl <;> rfl

theorem rxStep_not_refused {b : Byte} (he : s.eng ≠ .idle) : rxStep b s ≠ .refused r := by
  unfold rxStep
  split
  · nofun
  · nofun
  · rename_i i d hsc
    obtain ⟨-, -, -, -, rfl | rfl | ⟨v, rfl, -⟩⟩ := scanByte_symbol hsc <;> exact takeSymbol_not_refused he
  · split
    · exact exec_not_refused_of_waiting (instrOfFrame_not_hostOp ‹_›) he
    · nofun

theorem tickStep_not_refused : tickStep s ≠ .refused r := by
  unfold tickStep
  split
  · nofun
  · split
    · nofun
    · exact tryTransmit_not_refused r

/-- R73: the four cases of a message. -/
theorem decodeCommand_cases (m : CmdMsg) :
    (m.code = 0b00 ∧ m.timeout = 0 ∧ decodeCommand m = .error .timeoutZero) ∨
    (m.code = 0b00 ∧ 1 ≤ m.timeout ∧
      decodeCommand m = .ok (.openOp (roleOfBit m.role) m.maxAttempts m.timeout)) ∨
    (m.code ≠ 0b11 ∧ ((∃ p, decodeCommand m = .ok (.send p)) ∨ decodeCommand m = .ok .receive)) ∨
    (m.code = 0b11 ∧ decodeCommand m = .ok .close) := by
  have code_cases : ∀ c : BitVec 2, c = 0b00 ∨ c = 0b01 ∨ c = 0b10 ∨ c = 0b11 := by decide
  rcases code_cases m.code with hc | hc | hc | hc
  · by_cases ht : m.timeout = 0
    · simp [decodeCommand, hc, ht]
    · simp [decodeCommand, hc, ht, Nat.one_le_iff_ne_zero]
  all_goals simp [decodeCommand, hc]

/-- U9, U14: a command that is enabled is refused only as an `OPEN` outside its domain or too wide. -/
theorem cmdStep_refused {m : CmdMsg} (he : enabled s.eng (.cmd m) = true) (h : cmdStep m s = .refused r) :
    m.code = 0b00 ∧
    ((r = .timeoutZero ∧ m.timeout = 0) ∨
     (r = .budgetTooWide ∧ 1 ≤ m.timeout ∧ (2 ^ s.cfg.attW ≤ m.maxAttempts ∨ 2 ^ s.cfg.tmoW ≤ m.timeout))) := by
  rw [enabled_cmd] at he
  rcases decodeCommand_cases m with ⟨hc, ht, hd⟩ | ⟨hc, ht, hd⟩ | ⟨hc, ⟨p, hd⟩ | hd⟩ | ⟨hc, hd⟩
    <;> simp only [cmdStep, hd] at h
  · cases h
    exact ⟨hc, .inl ⟨rfl, ht⟩⟩
  · have he : s.eng = .idle := by simpa [hc] using he
    rcases execOpenOp_refused_iff.1 h with ⟨-, h0⟩ | hwide | ⟨-, -, hne⟩
    · omega
    · exact ⟨hc, .inr hwide⟩
    · contradiction
  · have he : s.eng = .idle := he.resolve_right fun hclose => hc hclose.1
    exact absurd he (execSend_refused_iff.1 h).2
  · have he : s.eng = .idle := he.resolve_right fun hclose => hc hclose.1
    exact absurd he (execReceive_refused_iff.1 h).2
  · obtain ⟨-, hidle, hsend, hrecv⟩ := execClose_refused_iff.1 h
    simp [hidle, hsend, hrecv] at he

/-- R7, U9, U14: a step refuses only an `OPEN` that it takes. -/
theorem step_refused (h : step s = .refused r) :
    ∃ m rest, takeEvent s.eng false s.pending = some (.cmd m, rest) ∧ m.code = 0b00 ∧
      ((r = .timeoutZero ∧ m.timeout = 0) ∨
       (r = .budgetTooWide ∧ 1 ≤ m.timeout ∧ (2 ^ s.cfg.attW ≤ m.maxAttempts ∨ 2 ^ s.cfg.tmoW ≤ m.timeout))) := by
  unfold step at h
  split at h
  · cases h
  · rename_i e rest htake
    have he := (takeEvent_some htake).1
    cases e with
    | reset => cases h
    | cmd m => exact ⟨m, rest, htake, cmdStep_refused (s := { s with pending := rest }) he h⟩
    | rxByte b => exact absurd h (rxStep_not_refused ((enabled_rxByte _ b).1 he))
    | tick => exact absurd h tickStep_not_refused

end refusals

/-- Settles O49: each meaning's refusals, and of those the ones whose event a step takes. -/
theorem refusedExactlyOutsideTheDomain : Obligations.RefusedExactlyOutsideTheDomain :=
  ⟨exec_refused_iff, fun _ _ => step_refused⟩

end Sys2Proof.Machine
end

section
/-! No step sees a register where the spec calls it unspecified (R22, R31, U4 to U7). `AgreeOnSpecified` is carried
through the decoder, through each update of the state, and through each meaning; where an unspecified register is read,
`ControlLegal` puts the engine in a session or a timed wait, in which the register is specified. -/

namespace Sys2Proof.Machine

open Host (Outcome)

/-! The decoder. -/

/-- `AgreeOnSpecified` on the decoder's registers (U6). -/
structure Decoder.Agree (d e : Decoder) : Prop where
  st : d.st = e.st
  addr : d.st.hasAddr = true → d.addr = e.addr
  ctrl : d.st.hasCtrl = true → d.ctrl = e.ctrl
  esc : d.esc = e.esc
  buf : d.buf = e.buf

/-- One byte completed the same and left decoders that agree. -/
inductive Scan.Agree : Scan → Scan → Prop
  | needMore {d e} (h : d.Agree e) : Scan.Agree (.needMore d) (.needMore e)
  | framingError {d e} (h : d.Agree e) : Scan.Agree (.framingError d) (.framingError e)
  | symbol {d e} (i) (h : d.Agree e) : Scan.Agree (.symbol i d) (.symbol i e)
  | frame {d e} (a c p x) (h : d.Agree e) : Scan.Agree (.frame a c p x d) (.frame a c p x e)

section decoder

variable {d e : Decoder}

theorem Decoder.Agree.refl (d : Decoder) : d.Agree d := ⟨rfl, fun _ => rfl, fun _ => rfl, rfl, rfl⟩

theorem Scan.Agree.refl (r : Scan) : r.Agree r := by
  cases r with
  | needMore d => exact .needMore (.refl d)
  | framingError d => exact .framingError (.refl d)
  | symbol i d => exact .symbol i (.refl d)
  | frame a c p x d => exact .frame a c p x (.refl d)

/-- R25: a decoder that has written both header registers has no unspecified one. -/
theorem Decoder.Agree.eq_of_hasCtrl (h : d.Agree e) (hc : d.st.hasCtrl = true) : d = e := by
  have ha : d.st.hasAddr = true := by cases hs : d.st <;> simp_all [DecSt.hasAddr, DecSt.hasCtrl]
  obtain ⟨hst, haddr, hctrl, hesc, hbuf⟩ := h
  cases d; cases e
  simp_all

/-- Outside any frame both header registers are unspecified. -/
theorem Decoder.Agree.with_st (h : d.Agree e) {st : DecSt} (hs : st.hasAddr = false) :
    Decoder.Agree { d with st := st } { e with st := st } where
  st := rfl
  addr ha := by simp [hs] at ha
  ctrl hc := by cases st <;> simp_all [DecSt.hasAddr, DecSt.hasCtrl]
  esc := h.esc
  buf := h.buf

theorem scanByte_agree (h : d.Agree e) (b : Byte) : (scanByte b d).Agree (scanByte b e) := by
  have hst : e.st = d.st := h.st.symm
  cases hs : d.st with
  | idle =>
    simp only [scanByte, hst, hs, scanIdle]
    split <;> exact .needMore (h.with_st rfl)
  | flagSeen =>
    simp only [scanByte, hst, hs, scanFlagSeen]
    split
    · exact .needMore (h.with_st rfl)
    · split
      · exact .needMore ⟨rfl, fun _ => rfl, nofun, h.esc, h.buf⟩
      · exact .needMore (h.with_st rfl)
  | addressSeen =>
    simp only [scanByte, hst, hs, scanAddressSeen]
    split
    · exact .needMore (h.with_st rfl)
    · split
      · exact .needMore ⟨rfl, fun _ => h.addr (by rw [hs]; rfl), fun _ => rfl, h.esc, h.buf⟩
      · exact .needMore (h.with_st rfl)
  | controlSeen | awaitEndS | inPayload =>
    rw [h.eq_of_hasCtrl (by rw [hs]; rfl)]
    exact .refl _

theorem accumulate_agree (h : d.Agree e) (maxPayload : Nat) (v : Byte) :
    (accumulate maxPayload v d).1.Agree (accumulate maxPayload v e).1 := by
  by_cases hb : d.buf.length = maxPayload + 1
  · rw [accumulate_full hb, accumulate_full (h.buf ▸ hb)]
    exact ⟨rfl, nofun, nofun, rfl, rfl⟩
  · rw [accumulate_room hb, accumulate_room (h.buf ▸ hb)]
    exact { h with buf := by simp [h.buf] }

theorem decodeByte_agree (h : d.Agree e) (maxPayload : Nat) (b : Byte) :
    (decodeByte maxPayload b d).1.Agree (decodeByte maxPayload b e).1 := by
  have hs := scanByte_agree h b
  unfold decodeByte
  generalize scanByte b d = r, scanByte b e = q at hs ⊢
  cases hs with
  | needMore h | framingError h | frame _ _ _ _ h => exact h
  | symbol i h => exact accumulate_agree h maxPayload _

theorem feed_agree (h : d.Agree e) (maxPayload : Nat) (bytes : List Byte) :
    (feed maxPayload bytes d).Agree (feed maxPayload bytes e) := by
  induction bytes generalizing d e with
  | nil => exact h
  | cons b bytes ih => exact ih (decodeByte_agree h maxPayload b)

end decoder

/-! The updates of the state. -/

section updates

variable {s t : State}

theorem AgreeOnSpecified.refl (s : State) : AgreeOnSpecified s s := by
  constructor <;> simp

theorem AgreeOnSpecified.dec (h : AgreeOnSpecified s t) : s.dec.Agree t.dec :=
  ⟨h.decSt, h.decAddr, h.decCtrl, h.decEsc, h.decBuf⟩

theorem AgreeOnSpecified.with_dec (h : AgreeOnSpecified s t) {d e : Decoder} (hd : d.Agree e) :
    AgreeOnSpecified { s with dec := d } { t with dec := e } :=
  { h with decSt := hd.st, decAddr := hd.addr, decCtrl := hd.ctrl, decEsc := hd.esc, decBuf := hd.buf }

theorem AgreeOnSpecified.emitTx (h : AgreeOnSpecified s t) (bytes : List Byte) :
    AgreeOnSpecified (emitTx bytes s) (emitTx bytes t) :=
  { h with out := by simp [h.out] }

theorem AgreeOnSpecified.respond (h : AgreeOnSpecified s t) (r : Result) :
    AgreeOnSpecified (respond r s) (respond r t) :=
  { h with out := by simp [h.out] }

/-- U5: a counter that is not running is unspecified. -/
theorem AgreeOnSpecified.disarm (h : AgreeOnSpecified s t) : AgreeOnSpecified (disarm s) (disarm t) :=
  { h with timerArmed := rfl, timerCnt := nofun }

/-- U7: entering a wait that is not timed, the held frame becomes unspecified. -/
theorem AgreeOnSpecified.with_eng (h : AgreeOnSpecified s t) {e : Eng} (he : e.timed = false) :
    AgreeOnSpecified { s with eng := e } { t with eng := e } :=
  { h with eng := rfl, hold := fun ht => absurd (he.symm.trans ht) nofun }

theorem AgreeOnSpecified.complete (h : AgreeOnSpecified s t) (r : Result) :
    AgreeOnSpecified (complete r s) (complete r t) :=
  (h.respond r).with_eng rfl

/-- U4: the role and the budget stay specified only from a session to a session. -/
theorem AgreeOnSpecified.with_phase (h : AgreeOnSpecified s t) {p : Phase} (hp : p ≠ .closed → s.phase ≠ .closed) :
    AgreeOnSpecified { s with phase := p } { t with phase := p } :=
  { h with
    phase := rfl
    role := fun hn => h.role (hp hn)
    maxAttempts := fun hn => h.maxAttempts (hp hn)
    timeout := fun hn => h.timeout (hp hn) }

/-- R118, R123, R130: an operation loads its frame and starts counting. -/
theorem AgreeOnSpecified.with_hold (h : AgreeOnSpecified s t) {f g : List Byte} (hf : f = g) (e : Eng) :
    AgreeOnSpecified { s with hold := f, attempts := 0, eng := e } { t with hold := g, attempts := 0, eng := e } :=
  { h with hold := fun _ => hf, attempts := rfl, eng := rfl }

/-- R117: an `OPEN` writes the role, the budget and the decoder's state. -/
theorem AgreeOnSpecified.openSession (h : AgreeOnSpecified s t) (role : Role) (n k : Nat) :
    AgreeOnSpecified (openSession role n k s) (openSession role n k t) :=
  { h with
    phase := rfl, role := fun _ => rfl, maxAttempts := fun _ => rfl, timeout := fun _ => rfl, txSeq := rfl,
    rxSeq := rfl, attempts := rfl, timerArmed := rfl, timerCnt := nofun, decSt := rfl, decAddr := nofun,
    decCtrl := nofun, decEsc := rfl, decBuf := rfl }

/-- R146: a transmission loads the counter from the session's timeout. -/
theorem AgreeOnSpecified.transmit (h : AgreeOnSpecified s t) (hp : s.phase ≠ .closed) (hh : s.hold = t.hold) :
    AgreeOnSpecified (transmit s) (transmit t) :=
  { h with
    attempts := by simp [h.attempts]
    timerArmed := rfl
    timerCnt := fun _ => h.timeout hp
    out := by simp [h.out, hh] }

/-- R132: the acknowledgment reads the length of the held frame. -/
theorem AgreeOnSpecified.acknowledged (h : AgreeOnSpecified s t) (hh : s.hold = t.hold) :
    AgreeOnSpecified (acknowledged s) (acknowledged t) :=
  { h.disarm.complete (.okSent s.hold.length) with txSeq := by simp [h.txSeq], out := by simp [h.out, hh] }

theorem AgreeOnSpecified.rrFrame (h : AgreeOnSpecified s t) (hp : s.phase ≠ .closed) : rrFrame s = rrFrame t := by
  simp only [Machine.rrFrame, h.role hp, h.rxSeq]

theorem AgreeOnSpecified.rejFrame (h : AgreeOnSpecified s t) (hp : s.phase ≠ .closed) : rejFrame s = rejFrame t := by
  simp only [Machine.rejFrame, h.role hp, h.rxSeq]

/-- R138: the RR carries the session's role and the number that is expected next. -/
theorem AgreeOnSpecified.acceptInfo (h : AgreeOnSpecified s t) (hp : s.phase ≠ .closed) (p : List Byte) :
    AgreeOnSpecified (acceptInfo p s) (acceptInfo p t) := by
  have hflip : AgreeOnSpecified { s with rxSeq := ~~~s.rxSeq } { t with rxSeq := ~~~t.rxSeq } :=
    { h with rxSeq := by simp [h.rxSeq] }
  simp only [Machine.acceptInfo, hflip.rrFrame hp]
  exact (hflip.emitTx _).complete _

/-- R31: the reset values are the same for all. -/
theorem AgreeOnSpecified.resetStep (h : AgreeOnSpecified s t) : AgreeOnSpecified (resetStep s) (resetStep t) := by
  have ht : Machine.resetStep t = Machine.resetStep s := by
    simp [Machine.resetStep, h.cfg, h.pending, h.out]
  exact ht ▸ .refl _

end updates

/-! The meanings. -/

/-- Both have a next state, and these agree, or both stop for the same reason. -/
inductive SameOutcome : Outcome State Fault Refusal → Outcome State Fault Refusal → Prop
  | next {s t} (h : AgreeOnSpecified s t) : SameOutcome (.next s) (.next t)
  | fault (r) : SameOutcome (.fault r) (.fault r)
  | refused (r) : SameOutcome (.refused r) (.refused r)

theorem SameOutcome.ite {p q : Prop} [Decidable p] [Decidable q] {x x' y y' : Outcome State Fault Refusal}
    (hpq : p ↔ q) (hx : p → SameOutcome x y) (hx' : ¬ p → SameOutcome x' y') :
    SameOutcome (if p then x else x') (if q then y else y') := by
  by_cases hp : p
  · rw [if_pos hp, if_pos (hpq.1 hp)]
    exact hx hp
  · rw [if_neg hp, if_neg (hpq.not.1 hp)]
    exact hx' hp

section meanings

variable {s t : State}

theorem fail_agree (h : AgreeOnSpecified s t) : SameOutcome (fail s) (fail t) := by
  unfold fail
  rw [← h.eng]
  cases s.eng with
  | openIWaitUa | closeIWaitDisc => exact .next ((h.with_phase (absurd rfl)).complete _)
  | sendWaitAck => exact .next (h.complete _)
  | _ => exact .fault _

/-- R146: a transmission reads the budget of a session and the held frame. -/
theorem tryTransmit_agree (h : AgreeOnSpecified s t) (hp : s.phase ≠ .closed) (hh : s.hold = t.hold) :
    SameOutcome (tryTransmit s) (tryTransmit t) :=
  .ite (by rw [h.attempts, h.maxAttempts hp]) (fun _ => fail_agree h) fun _ => .next (h.transmit hp hh)

/-- R148: the counter is read while the timer is armed, which it is in the timed waits of a session (R14). -/
theorem tickStep_agree (h : AgreeOnSpecified s t) (hc : ControlLegal s) : SameOutcome (tickStep s) (tickStep t) := by
  refine .ite (by rw [h.timerArmed]) (fun _ => .next h) fun ha => ?_
  have ha : s.timerArmed = true := eq_true_of_ne_false ha
  have ht : s.eng.timed = true := hc.2 ▸ ha
  have hp : s.phase ≠ .closed := hc.phase_ne_closed rfl (by intro he; simp [he, Eng.timed] at ht)
  refine .ite (by rw [h.timerCnt ha]) (fun _ => .next ?_) fun _ => tryTransmit_agree h.disarm hp (h.hold ht)
  exact { h with timerCnt := fun _ => by simp [h.timerCnt ha] }

theorem takeSymbol_agree (h : AgreeOnSpecified s t) (bytes : List Byte) :
    SameOutcome (takeSymbol bytes s) (takeSymbol bytes t) := by
  refine .ite (by rw [h.eng]) (fun _ => .refused _) fun _ => .next (h.with_dec ?_)
  rw [h.cfg]
  exact feed_agree h.dec _ bytes

theorem receiveRr_agree (h : AgreeOnSpecified s t) (n : Bit) : SameOutcome (receiveRr n s) (receiveRr n t) := by
  unfold receiveRr
  rw [← h.eng]
  cases he : s.eng with
  | idle => exact .refused _
  | sendWaitAck =>
    have hh : s.hold = t.hold := h.hold (by rw [he]; rfl)
    exact .ite (by rw [h.txSeq]) (fun _ => .next (h.acknowledged hh)) fun _ => .next h
  | _ => exact .next h

theorem receiveRej_agree (h : AgreeOnSpecified s t) (hc : ControlLegal s) (n : Bit) :
    SameOutcome (receiveRej n s) (receiveRej n t) := by
  unfold receiveRej
  rw [← h.eng]
  cases he : s.eng with
  | idle => exact .refused _
  | sendWaitAck =>
    have hp : s.phase ≠ .closed := hc.phase_ne_closed he nofun
    have hh : s.hold = t.hold := h.hold (by rw [he]; rfl)
    exact .ite (by rw [h.txSeq]) (fun _ => tryTransmit_agree h.disarm hp hh) fun _ => .next h
  | _ => exact .next h

/-- R138 to R140: the answers carry the session's role. -/
theorem receiveInfoWaiting_agree (h : AgreeOnSpecified s t) (hp : s.phase ≠ .closed) (n : Bit) (p : List Byte)
    (valid : Bool) : AgreeOnSpecified (receiveInfoWaiting n p valid s) (receiveInfoWaiting n p valid t) := by
  unfold receiveInfoWaiting
  rw [← h.rxSeq, ← h.rrFrame hp, ← h.rejFrame hp]
  split
  · exact h.emitTx _
  · split
    · exact h.acceptInfo hp p
    · exact h.emitTx _

theorem receiveInfo_agree (h : AgreeOnSpecified s t) (hc : ControlLegal s) (n : Bit) (p : List Byte) (x : Byte) :
    SameOutcome (receiveInfo n p x s) (receiveInfo n p x t) := by
  unfold receiveInfo
  rw [← h.eng]
  cases he : s.eng with
  | idle => exact .refused _
  | recvWait => exact .next (receiveInfoWaiting_agree h (hc.phase_ne_closed he nofun) n p _)
  | _ => exact .next h

theorem execSet_agree (h : AgreeOnSpecified s t) (hc : ControlLegal s) (a : Byte) :
    SameOutcome (execSet a s) (execSet a t) := by
  unfold execSet
  rw [← h.eng]
  cases he : s.eng with
  | idle => exact .refused _
  | openRWaitSet => exact .next (((h.emitTx _).with_phase fun _ => hc.phase_ne_closed he nofun).complete _)
  | _ => exact .next h

theorem execUa_agree (h : AgreeOnSpecified s t) (hc : ControlLegal s) (a : Byte) :
    SameOutcome (execUa a s) (execUa a t) := by
  unfold execUa
  rw [← h.eng]
  cases he : s.eng with
  | idle => exact .refused _
  | openIWaitUa => exact .next ((h.disarm.with_phase fun _ => hc.phase_ne_closed he nofun).complete _)
  | closeRWaitUa => exact .next ((h.with_phase (absurd rfl)).complete _)
  | _ => exact .next h

theorem execDisc_agree (h : AgreeOnSpecified s t) (a : Byte) : SameOutcome (execDisc a s) (execDisc a t) := by
  unfold execDisc
  rw [← h.eng]
  cases s.eng with
  | idle => exact .refused _
  | recvWait => exact .next (h.complete _)
  | closeIWaitDisc => exact .next (((h.disarm.emitTx _).with_phase (absurd rfl)).complete _)
  | closeRWaitDisc => exact .next ((h.emitTx _).with_eng rfl)
  | _ => exact .next h

theorem execOpenOp_agree (h : AgreeOnSpecified s t) (role : Role) (n k : Nat) :
    SameOutcome (execOpenOp role n k s) (execOpenOp role n k t) := by
  refine .ite .rfl (fun _ => .refused _) fun _ => ?_
  refine .ite (by rw [h.cfg]) (fun _ => .refused _) fun _ => ?_
  refine .ite (by rw [h.eng]) (fun _ => .refused _) fun _ => ?_
  refine .ite (by rw [h.phase]) (fun _ => .next (h.respond _)) fun _ => ?_
  have ho := h.openSession role n k
  cases role with
  | initiator => exact tryTransmit_agree (ho.with_hold rfl _) nofun rfl
  | responder => exact .next (ho.with_eng rfl)

theorem execSend_agree (h : AgreeOnSpecified s t) (p : List Byte) : SameOutcome (execSend p s) (execSend p t) := by
  refine .ite (by rw [h.eng]) (fun _ => .refused _) fun _ => ?_
  refine .ite (by rw [h.phase]) (fun _ => .next (h.respond _)) fun hopen => ?_
  refine .ite (by rw [h.cfg]) (fun _ => .next (h.respond _)) fun _ => ?_
  have hp : s.phase ≠ .closed := by simp [Decidable.not_not.1 hopen]
  exact tryTransmit_agree (h.with_hold (by rw [h.role hp, h.txSeq]) _) hp (by rw [h.role hp, h.txSeq])

theorem execReceive_agree (h : AgreeOnSpecified s t) : SameOutcome (execReceive s) (execReceive t) := by
  refine .ite (by rw [h.eng]) (fun _ => .refused _) fun _ => ?_
  exact .ite (by rw [h.phase]) (fun _ => .next (h.respond _)) fun _ => .next (h.with_eng rfl)

theorem startClose_initiator (hr : s.role = .initiator) : startClose s = startCloseI { s with phase := .closing } := by
  unfold startClose
  split
  · rfl
  · cases hr.symm.trans ‹_›

theorem startClose_responder (hr : s.role = .responder) : startClose s = startCloseR { s with phase := .closing } := by
  unfold startClose
  split
  · cases hr.symm.trans ‹_›
  · rfl

/-- R122: which close begins is read from the session's role. -/
theorem startClose_agree (h : AgreeOnSpecified s t) (hp : s.phase ≠ .closed) :
    SameOutcome (startClose s) (startClose t) := by
  have hclosing : AgreeOnSpecified { s with phase := .closing } { t with phase := .closing } := h.with_phase fun _ => hp
  cases hr : s.role with
  | initiator =>
    rw [startClose_initiator hr, startClose_initiator ((h.role hp).symm.trans hr)]
    exact tryTransmit_agree (hclosing.with_hold rfl _) nofun rfl
  | responder =>
    rw [startClose_responder hr, startClose_responder ((h.role hp).symm.trans hr)]
    exact .next (hclosing.with_eng rfl)

theorem execClose_agree (h : AgreeOnSpecified s t) (hc : ControlLegal s) :
    SameOutcome (execClose s) (execClose t) := by
  refine .ite (by rw [h.eng]) (fun _ => ?_) fun hwait => ?_
  · refine .ite (by rw [h.phase]) (fun _ => .next (h.respond _)) fun hopen => startClose_agree h ?_
    simp [Decidable.not_not.1 hopen]
  · have hp : s.phase ≠ .closed := hc.phase_ne_closed rfl hwait
    exact .ite (by rw [h.eng]) (fun _ => startClose_agree (h.disarm.respond _) hp) fun _ => .refused _

theorem exec_agree (h : AgreeOnSpecified s t) (hc : ControlLegal s) (i : Instr) :
    SameOutcome (exec i s) (exec i t) := by
  cases i with
  | set a => exact execSet_agree h hc a
  | ua a => exact execUa_agree h hc a
  | disc a => exact execDisc_agree h a
  | rr0 a | rr1 a => exact receiveRr_agree h _
  | rej0 a | rej1 a => exact receiveRej_agree h hc _
  | i0 a p x | i1 a p x => exact receiveInfo_agree h hc _ p x
  | openOp role n k => exact execOpenOp_agree h role n k
  | send p => exact execSend_agree h p
  | receive => exact execReceive_agree h
  | close => exact execClose_agree h hc
  | escFlag | escEsc | literal v => exact takeSymbol_agree h _

theorem rxStep_agree (h : AgreeOnSpecified s t) (hc : ControlLegal s) (b : Byte) :
    SameOutcome (rxStep b s) (rxStep b t) := by
  have hs := scanByte_agree h.dec b
  unfold rxStep
  generalize scanByte b s.dec = r, scanByte b t.dec = q at hs ⊢
  cases hs with
  | needMore hd | framingError hd => exact .next (h.with_dec hd)
  | symbol i hd => exact exec_agree (h.with_dec hd) hc i
  | frame a c p x hd =>
    dsimp only
    split
    · exact exec_agree (h.with_dec hd) hc _
    · exact .next (h.with_dec hd)

theorem handle_agree (h : AgreeOnSpecified s t) (hc : ControlLegal s) (e : Event) :
    SameOutcome (handle e s) (handle e t) := by
  cases e with
  | reset => exact .next h.resetStep
  | cmd m =>
    simp only [handle, cmdStep]
    split
    · exact exec_agree h hc _
    · exact .refused _
  | rxByte b => exact rxStep_agree h hc b
  | tick => exact tickStep_agree h hc

/-- The same event is taken, since the waiting operation and what is presented are the same. -/
theorem step_agree (h : AgreeOnSpecified s t) (hc : ControlLegal s) : SameOutcome (step s) (step t) := by
  have htake : takeEvent t.eng false t.pending = takeEvent s.eng false s.pending := by rw [h.eng, h.pending]
  unfold step
  rw [htake]
  split
  · exact .next h
  · rename_i e rest _
    have hrest : AgreeOnSpecified { s with pending := rest } { t with pending := rest } := { h with pending := rfl }
    exact handle_agree hrest hc e

end meanings

/-- Settles O53: the two steps have the same outcome. -/
theorem unspecifiedRegistersAreNeverSeen : Obligations.UnspecifiedRegistersAreNeverSeen := by
  intro s t hc h
  have hsame := step_agree h hc
  generalize step s = x, step t = y at hsame ⊢
  cases hsame with
  | next h' => simpa using h'
  | fault | refused => simp

end Sys2Proof.Machine
end

section
/-! The reset state, the states that runs from reset reach (R14), and what advances the two sequence bits (R17 to
R19). -/

namespace Sys2Proof.Machine

/-! Reset and runs from it. -/

/-- R31: the reset state with any parameters and any presented inputs. -/
def State.start (c : Config) (inputs : List Event) : State := { State.reset with cfg := c, pending := inputs }

/-- The start is what the `Reset` event makes of itself. -/
theorem State.start_inv (c : Config) (inputs : List Event) : EngineInv (State.start c inputs) :=
  resetStep_inv (State.start c inputs)

/-- Settles O40: the reset state is the start at the model's own parameters with nothing presented. -/
theorem resetHasTheInvariant : Obligations.ResetHasTheInvariant := State.start_inv Config.unfixed []

theorem runSteps_keeps_inv {n : Nat} {s t : State} (hs : EngineInv s) (h : runSteps n s = .next t) : EngineInv t := by
  induction n generalizing s with
  | zero => cases h; exact hs
  | succ n ih =>
    unfold runSteps at h
    split at h
    · exact ih (everyStepKeepsTheInvariant _ _ hs ‹_›) h
    · cases h
    · cases h

/-! The nine pairs. -/

/-- R14: `legalPair` is membership in the list. -/
theorem legalPair_iff_mem (p : Phase) (e : Eng) : legalPair p e = true ↔
    (p, e) ∈
      [(Phase.closed, Eng.idle), (.establishing, .openIWaitUa), (.establishing, .openRWaitSet), (.opened, .idle),
       (.opened, .sendWaitAck), (.opened, .recvWait), (.closing, .closeIWaitDisc), (.closing, .closeRWaitDisc),
       (.closing, .closeRWaitUa)] := by
  cases p <;> cases e <;> decide

theorem Eng.timed_iff (e : Eng) : e.timed = true ↔ e = .openIWaitUa ∨ e = .sendWaitAck ∨ e = .closeIWaitDisc := by
  cases e <;> decide

/-- `OPEN` with a budget of one attempt and one tick. -/
def openCmd (role : Role) : Event :=
  .cmd { CmdMsg.bare 0b00 with role := bitOfRole role, maxAttempts := 1, timeout := 1 }

/-- A supervisory frame on the line, byte by byte. -/
def frameEvents (a c : Byte) : List Event := (encodeS a c).map Event.rxByte

/-- The engine's own registers with any decoder and any presented inputs. -/
def State.fed (s : State) (d : Decoder) (inputs : List Event) : State := { s with dec := d, pending := inputs }

section frames

variable {s t : State} {d : Decoder} {a c : Byte} {i : Instr} {rest : List Event}

/-- R7: a byte is taken while an operation waits. -/
theorem step_fed (he : s.eng ≠ .idle) (b : Byte) : step (s.fed d (.rxByte b :: rest)) = rxStep b (s.fed d rest) :=
  step_head (s := s.fed d (.rxByte b :: rest)) rfl ((enabled_rxByte _ b).2 he)

/-- R101: a byte that completes nothing. -/
theorem runSteps_needMore {b : Byte} {d' : Decoder} (he : s.eng ≠ .idle) (hd : scanByte b d = .needMore d') (n : Nat) :
    runSteps (n + 1) (s.fed d (.rxByte b :: rest)) = runSteps n (s.fed d' rest) := by
  have hrx : rxStep b (s.fed d rest) = .next (s.fed d' rest) := by simp [rxStep, State.fed, hd]
  simp only [runSteps, step_fed he, hrx]

/-- R101: the marker that ends a supervisory frame runs the frame. -/
theorem runSteps_frameEnd (he : s.eng ≠ .idle) (hd : d.st = .awaitEndS) (hi : instrOfFrame d.addr d.ctrl [] 0 = some i)
    (hx : exec i (s.fed { d with st := .idle } rest) = .next t) (n : Nat) :
    runSteps (n + 1) (s.fed d (.rxByte flag :: rest)) = runSteps n t := by
  have hscan : scanByte flag (s.fed d rest).dec = .frame d.addr d.ctrl [] 0 { d with st := .idle } := by
    simp [State.fed, scanByte, hd, scanAwaitEndS, xorFold]
  have hrx : rxStep flag (s.fed d rest) = .next t := by
    unfold rxStep
    rw [hscan]
    simp only [hi]
    exact hx
  simp only [runSteps, step_fed he, hrx]

/-- R102 to R106: the five bytes of a supervisory frame run the frame. -/
theorem runSteps_frameEvents (he : s.eng ≠ .idle) (hd : d.st = .idle) (ha : isAddress a = true) (hc : isSup c = true)
    (hi : instrOfFrame a c [] 0 = some i)
    (hx : exec i (s.fed { d with st := .idle, addr := a, ctrl := c } rest) = .next t) (n : Nat) :
    runSteps (n + 5) (s.fed d (frameEvents a c ++ rest)) = runSteps n t := by
  have haf : a ≠ flag := by rintro rfl; exact absurd ha (by decide)
  have hcf : c ≠ flag := by rintro rfl; exact absurd hc (by decide)
  have hcs : (classify c).isSome = true := by
    obtain ⟨k, hk, -⟩ := Option.map_eq_some_iff.1 hi
    simp [hk]
  let d1 : Decoder := { d with st := .flagSeen }
  let d2 : Decoder := { d with st := .addressSeen, addr := a }
  let d3 : Decoder := { d with st := .controlSeen, addr := a, ctrl := c }
  let d4 : Decoder := { d with st := .awaitEndS, addr := a, ctrl := c }
  have h1 : scanByte flag d = .needMore d1 := by simp [scanByte, hd, scanIdle, d1]
  have h2 : scanByte a d1 = .needMore d2 := by simp [scanByte, scanFlagSeen, haf, ha, d1, d2]
  have h3 : scanByte c d2 = .needMore d3 := by simp [scanByte, scanAddressSeen, hcf, hcs, d2, d3]
  have h4 : scanByte (bcc1 a c) d3 = .needMore d4 := by
    simp [scanByte, scanControlSeen, headerOk, not_isInf_of_isSup hc, hc, d3, d4]
  have hline : frameEvents a c ++ rest =
      .rxByte flag :: .rxByte a :: .rxByte c :: .rxByte (bcc1 a c) :: .rxByte flag :: rest := rfl
  rw [hline, runSteps_needMore he h1, runSteps_needMore he h2, runSteps_needMore he h3, runSteps_needMore he h4]
  exact runSteps_frameEnd (d := d4) he rfl hi hx n

end frames

/-- R120: the Responder's wait that its `OPEN` starts. -/
def waitingResponder (c : Config) (inputs : List Event) : State :=
  { openSession .responder 1 1 (State.start c inputs) with eng := .openRWaitSet }

/-- R118: the Initiator's wait that its `OPEN` starts, SET being sent. -/
def waitingInitiator (c : Config) (inputs : List Event) : State :=
  transmit { openSession .initiator 1 1 (State.start c inputs) with hold := encodeS 0x03 0x03, eng := .openIWaitUa }

/-- The decoder after a supervisory frame (R106). -/
def Decoder.after (a c : Byte) : Decoder := { Decoder.reset with addr := a, ctrl := c }

/-- R121: the Responder's session that SET opens. -/
def openResponder (c : Config) (inputs : List Event) : State :=
  complete .ok
    { emitTx (encodeS 0x03 0x07) ((waitingResponder c []).fed (.after 0x03 0x03) inputs) with phase := .opened }

/-- R119: the Initiator's session that UA opens. -/
def openInitiator (c : Config) (inputs : List Event) : State :=
  complete .ok { disarm ((waitingInitiator c []).fed (.after 0x01 0x07) inputs) with phase := .opened }

/-- R125: the Responder's wait that its `CLOSE` starts. -/
def closingResponder (c : Config) (inputs : List Event) : State :=
  { openResponder c inputs with phase := .closing, eng := .closeRWaitDisc }

section reached

variable {c : Config}

/-- R117, R120: in an engine that is wide enough the first command of a run opens the Responder's session. -/
theorem runSteps_waitingResponder (ha : 1 < 2 ^ c.attW) (ht : 1 < 2 ^ c.tmoW) (n : Nat) (inputs : List Event) :
    runSteps (n + 1) (State.start c (openCmd .responder :: inputs)) = runSteps n (waitingResponder c inputs) := by
  have hstep : step (State.start c (openCmd .responder :: inputs)) = .next (waitingResponder c inputs) :=
    execOpenOp_accepted (role := .responder) (Nat.le_refl 1) ((budgetFits_iff c 1 1).2 ⟨ha, ht⟩) rfl rfl
  rw [runSteps, hstep]

/-- R117, R118: or the Initiator's. -/
theorem runSteps_waitingInitiator (ha : 1 < 2 ^ c.attW) (ht : 1 < 2 ^ c.tmoW) (n : Nat) (inputs : List Event) :
    runSteps (n + 1) (State.start c (openCmd .initiator :: inputs)) = runSteps n (waitingInitiator c inputs) := by
  have hstep : step (State.start c (openCmd .initiator :: inputs)) = .next (waitingInitiator c inputs) :=
    execOpenOp_accepted (role := .initiator) (Nat.le_refl 1) ((budgetFits_iff c 1 1).2 ⟨ha, ht⟩) rfl rfl
  rw [runSteps, hstep]

theorem runSteps_openResponder (n : Nat) (inputs : List Event) :
    runSteps (n + 5) (waitingResponder c (frameEvents 0x03 0x03 ++ inputs)) = runSteps n (openResponder c inputs) :=
  runSteps_frameEvents (s := waitingResponder c []) (d := Decoder.reset) (i := .set 0x03) nofun rfl rfl rfl rfl rfl n

theorem runSteps_openInitiator (n : Nat) (inputs : List Event) :
    runSteps (n + 5) (waitingInitiator c (frameEvents 0x01 0x07 ++ inputs)) = runSteps n (openInitiator c inputs) :=
  runSteps_frameEvents (s := waitingInitiator c []) (d := Decoder.reset) (i := .ua 0x01) nofun rfl rfl rfl rfl rfl n

/-- R126: DISC makes the closing Responder wait for its UA. -/
theorem runSteps_closingResponder (inputs : List Event) :
    ∃ t, runSteps 5 (closingResponder c (frameEvents 0x03 0x0B ++ inputs)) = .next t ∧
      (t.phase, t.eng) = (.closing, .closeRWaitUa) :=
  ⟨_, runSteps_frameEvents (s := closingResponder c []) (d := .after 0x03 0x03) (i := .disc 0x03)
    nofun rfl rfl rfl rfl rfl 0, rfl⟩

/-- The pair occurs in a run from reset, under some inputs. -/
def Reached (c : Config) (pair : Phase × Eng) : Prop :=
  ∃ (inputs : List Event) (n : Nat) (t : State), runSteps n (State.start c inputs) = .next t ∧ (t.phase, t.eng) = pair

/-- Each listed pair by a run of its own: the Responder's session is opened by SET and closed by DISC, the Initiator's
opened by UA; in the open session each command begins its wait. -/
theorem reached_of_legalPair (ha : 1 < 2 ^ c.attW) (ht : 1 < 2 ^ c.tmoW) {p : Phase} {e : Eng}
    (h : legalPair p e = true) : Reached c (p, e) := by
  have responder (inputs n t) (h : runSteps n (waitingResponder c inputs) = .next t) : Reached c (t.phase, t.eng) :=
    ⟨_, n + 1, t, (runSteps_waitingResponder ha ht n inputs).trans h, rfl⟩
  have initiator (inputs n t) (h : runSteps n (waitingInitiator c inputs) = .next t) : Reached c (t.phase, t.eng) :=
    ⟨_, n + 1, t, (runSteps_waitingInitiator ha ht n inputs).trans h, rfl⟩
  match p, e, h with
  | .closed, .idle, _ => exact ⟨[], 0, _, rfl, rfl⟩
  | .establishing, .openIWaitUa, _ => exact initiator [] 0 _ rfl
  | .establishing, .openRWaitSet, _ => exact responder [] 0 _ rfl
  | .opened, .idle, _ => exact responder _ 5 _ (runSteps_openResponder 0 [])
  | .opened, .sendWaitAck, _ => exact responder _ 6 _ (runSteps_openResponder 1 [.cmd (CmdMsg.bare 0b01)])
  | .opened, .recvWait, _ => exact responder _ 6 _ (runSteps_openResponder 1 [.cmd (CmdMsg.bare 0b10)])
  | .closing, .closeIWaitDisc, _ => exact initiator _ 6 _ (runSteps_openInitiator 1 [.cmd (CmdMsg.bare 0b11)])
  | .closing, .closeRWaitDisc, _ => exact responder _ 6 _ (runSteps_openResponder 1 [.cmd (CmdMsg.bare 0b11)])
  | .closing, .closeRWaitUa, _ =>
    obtain ⟨t, hrun, hpair⟩ := runSteps_closingResponder (c := c) []
    have hopen := runSteps_openResponder (c := c) 6 (.cmd (CmdMsg.bare 0b11) :: frameEvents 0x03 0x0B)
    exact hpair ▸ responder _ 11 t (hopen.trans hrun)

end reached

/-- Settles O41: the pairs and the armed timer are `ControlLegal`, part of the invariant that every run keeps; each pair
is reached. -/
theorem exactlyTheListedPairsOccur : Obligations.ExactlyTheListedPairsOccur := by
  refine ⟨fun c inputs n t h => ?_, fun c ha ht pair hmem => ?_⟩
  · obtain ⟨hpair, htimer⟩ := (runSteps_keeps_inv (State.start_inv c inputs) h).control
    exact ⟨(legalPair_iff_mem _ _).1 hpair, by rw [htimer, Eng.timed_iff]⟩
  · exact reached_of_legalPair ha ht ((legalPair_iff_mem _ _).2 hmem)

/-! The sequence bits. -/

section sequenceBits

variable {o : Option Instr} {s t : State}

/-- R17: but for `OPEN`, the send number is written by the acknowledgment alone. -/
theorem Effect.txSeq_cases (h : Effect o s t) (hopen : ∀ role n k, o ≠ some (.openOp role n k)) :
    t.txSeq = s.txSeq ∨
    (s.eng = .sendWaitAck ∧ t = acknowledged s ∧
      ∃ a, (s.txSeq = 0 ∧ o = some (.rr1 a)) ∨ (s.txSeq = 1 ∧ o = some (.rr0 a))) := by
  cases h with
  | openSends | openFails | openWaits => exact absurd rfl (hopen _ _ _)
  | acked he hi =>
    refine .inr ⟨he, rfl, ?_⟩
    rcases hi with ⟨hs, a, rfl⟩ | ⟨hs, a, rfl⟩
    · exact ⟨a, .inl ⟨hs, rfl⟩⟩
    · exact ⟨a, .inr ⟨hs, rfl⟩⟩
  | _ => exact .inl rfl

/-- R18: but for `OPEN`, the receive number is written by the acceptance of a new frame alone. -/
theorem Effect.rxSeq_cases (h : Effect o s t) (hopen : ∀ role n k, o ≠ some (.openOp role n k)) :
    t.rxSeq = s.rxSeq ∨
    (s.eng = .recvWait ∧ ∃ a p, t = acceptInfo p s ∧
      ((s.rxSeq = 0 ∧ o = some (.i0 a p (xorFold p))) ∨ (s.rxSeq = 1 ∧ o = some (.i1 a p (xorFold p))))) := by
  cases h with
  | openSends | openFails | openWaits => exact absurd rfl (hopen _ _ _)
  | infoAccepted he hi => exact .inr ⟨he, _, _, rfl, by simpa using hi⟩
  | _ => exact .inl rfl

/-- R132. -/
theorem newOutputs_acknowledged (s : State) : newOutputs s (acknowledged s) = [.rsp (.okSent s.hold.length)] := by
  simp [newOutputs]

/-- R138: the RR names the number that is expected after the frame. -/
theorem newOutputs_acceptInfo (p : List Byte) (s : State) :
    newOutputs s (acceptInfo p s) =
      [.tx (encodeS (addrOf s.role (.rr (~~~s.rxSeq))) (ctrlRR (~~~s.rxSeq))), .rsp (.data p)] := by
  simp [newOutputs, acceptInfo, rrFrame]

theorem acceptInfo_rxSeq (p : List Byte) (s : State) : (acceptInfo p s).rxSeq = ~~~s.rxSeq := rfl

end sequenceBits

/-- Settles O43: of all the effects but `OPEN`'s, the acknowledgment alone writes the one bit and the acceptance of a
frame the other. -/
theorem sequenceBitsAdvanceOnlyOnAcceptance : Obligations.SequenceBitsAdvanceOnlyOnAcceptance := by
  refine ⟨fun i s t h hopen => ?_, fun s t h => ?_⟩
  · have hopen : ∀ role n k, some i ≠ some (.openOp role n k) := by simpa using hopen
    refine ⟨fun hne => ?_, fun hne => ?_⟩
    · obtain ⟨he, rfl, a, hi⟩ := ((exec_effect h).txSeq_cases hopen).resolve_left hne
      refine ⟨he, acknowledged_txSeq s, newOutputs_acknowledged s, ?_⟩
      exact hi.imp (fun ⟨hs, hi⟩ => ⟨hs, a, Option.some.inj hi⟩) (fun ⟨hs, hi⟩ => ⟨hs, a, Option.some.inj hi⟩)
    · obtain ⟨he, a, p, rfl, hi⟩ := ((exec_effect h).rxSeq_cases hopen).resolve_left hne
      refine ⟨he, acceptInfo_rxSeq p s, a, p, ?_, newOutputs_acceptInfo p s⟩
      rcases hi with ⟨hs, ⟨⟩⟩ | ⟨hs, ⟨⟩⟩ <;> simp [hs]
  · have hx := tickStep_effect h
    constructor
    · exact (hx.txSeq_cases nofun).resolve_right (by simp)
    · exact (hx.rxSeq_cases nofun).resolve_right (by simp)

end Sys2Proof.Machine
end

section
/-! What one step emits (R51), and what it can do while it stays in a timed wait (R55, R146, R150). Both are read off
the cases of `Effect`, which are lifted to the step once. -/

namespace Sys2Proof.Machine

variable {s t : State}

/-! The step by its effect. -/

/-- R6, R101: but for `Reset`, an event is an instruction or a tick, run after the decoder took its byte. -/
theorem handle_effect {e : Event} (h : handle e s = .next t) :
    t = resetStep s ∨ ∃ o d, Effect o { s with dec := d } t := by
  cases e with
  | reset => cases h; exact .inl rfl
  | cmd m =>
    obtain ⟨i, -, hx⟩ := cmdStep_next h
    exact .inr ⟨some i, s.dec, exec_effect hx⟩
  | rxByte b =>
    rcases rxStep_next h with ⟨d, -, rfl⟩ | ⟨i, d, -, hx⟩ | ⟨-, -, -, -, d, -, ⟨i, -, hx⟩ | ⟨-, rfl⟩⟩
    · exact .inr ⟨none, d, .unchanged⟩
    · exact .inr ⟨some i, d, exec_effect hx⟩
    · exact .inr ⟨some i, d, exec_effect hx⟩
    · exact .inr ⟨none, d, .unchanged⟩
  | tick => exact .inr ⟨none, s.dec, tickStep_effect h⟩

/-- R6, R7: a step resets, or has an effect in its own state but for the decoder and what is presented. -/
theorem step_effect (h : step s = .next t) :
    (∃ rest, t = resetStep { s with pending := rest }) ∨ ∃ o d rest, Effect o (s.fed d rest) t := by
  obtain rfl | ⟨e, rest, -, -, hh⟩ := step_next h
  · exact .inr ⟨none, t.dec, t.pending, .unchanged⟩
  · obtain rfl | ⟨o, d, hx⟩ := handle_effect hh
    · exact .inl ⟨rest, rfl⟩
    · exact .inr ⟨o, d, rest, hx⟩

/-! Outputs. -/

/-- R51: the ways in which a step that began in the operation state `e` grows the history `old` to that of `t`. -/
inductive OutputsGrow (e : Eng) (old : List Output) (t : State) : Prop
  | nothing (h : t.out = old)
  | tx {f} (h : t.out = old ++ [.tx f])
  | rsp {r} (h : t.out = old ++ [.rsp r])
  | txRsp {f r} (h : t.out = old ++ [.tx f] ++ [.rsp r]) (hr : r ≠ .aborted)
  | abortTx {f} (h : t.out = old ++ [.rsp .aborted] ++ [.tx f]) (he : e = .sendWaitAck ∨ e = .recvWait)
      (hp : t.phase = .closing)
  | abortFails (h : t.out = old ++ [.rsp .aborted] ++ [.rsp .closeFailed]) (he : e = .sendWaitAck ∨ e = .recvWait)
      (hp : t.phase = .closed)

theorem Effect.outputsGrow {o : Option Instr} (h : Effect o s t) : OutputsGrow s.eng s.out t := by
  cases h with
  | unchanged | symbolTaken | openWaits | receiveWaits | closeWaits | tickCounts => exact .nothing rfl
  | openSends | discAnswered | rejResends | infoRejected | infoDuplicate | sendSends | closeSends | tickResends =>
    exact .tx rfl
  | answered | openFails | uaOpens | uaCloses | peerClosed | acked | rejFails | sendFails | closeFails | abortWaits
  | tickFailsOpen | tickFailsSend | tickFailsClose => exact .rsp rfl
  | setAnswered | discCloses | infoAccepted => exact .txRsp rfl nofun
  | abortSends he => exact .abortTx rfl he rfl
  | abortFails he => exact .abortFails rfl he rfl

theorem step_outputsGrow (h : step s = .next t) : OutputsGrow s.eng s.out t := by
  obtain ⟨rest, rfl⟩ | ⟨o, d, rest, hx⟩ := step_effect h
  · exact .nothing rfl
  · exact hx.outputsGrow

/-- Settles O45: the outputs of each effect, `Reset` having none. -/
theorem outputsOfOneStep : Obligations.OutputsOfOneStep := by
  intro s t h
  cases step_outputsGrow h with
  | nothing h => exact ⟨[], by simp [h]⟩
  | tx h | rsp h => exact ⟨_, h, by simp⟩
  | txRsp h hr => exact ⟨_, h.trans (List.append_assoc ..), by simp [hr]⟩
  | abortTx h he hp | abortFails h he hp => exact ⟨_, h.trans (List.append_assoc ..), by simp [he, hp]⟩

/-! Staying in a timed wait. -/

/-- R134, R146, R148: what stays in a timed wait takes a symbol, counts down or sends the held frame once more. -/
theorem Effect.stays_timed {o : Option Instr} (h : Effect o s t) (ht : s.eng.timed = true) (he : t.eng = s.eng) :
    (∃ d n, t = { s with dec := d, timerCnt := n }) ∨ t = transmit (disarm s) := by
  cases h with
  | unchanged => exact .inl ⟨s.dec, s.timerCnt, rfl⟩
  | symbolTaken d => exact .inl ⟨d, s.timerCnt, rfl⟩
  | tickCounts => exact .inl ⟨s.dec, s.timerCnt - 1, rfl⟩
  | rejResends | tickResends => exact .inr rfl
  | answered _ _ hs | openSends _ hs | openFails _ hs | openWaits _ hs | sendSends hs | sendFails hs | receiveWaits hs
  | closeWaits hs | closeSends hs | closeFails hs | setAnswered hs | uaCloses hs | peerClosed hs | discAnswered hs
  | infoRejected hs | infoDuplicate hs | infoAccepted hs => simp [hs, Eng.timed] at ht
  | uaOpens | discCloses | acked | rejFails | tickFailsOpen | tickFailsSend | tickFailsClose =>
    rw [← he] at ht
    cases ht
  | abortWaits hs | abortSends hs | abortFails hs => rcases hs with hs | hs <;> simp [hs] at he

/-- Settles O38: `Reset` ends the wait; of the effects that stay in it only `transmit` emits and counts. -/
theorem heldFrameIsResentUnchangedAndCounted : Obligations.HeldFrameIsResentUnchangedAndCounted := by
  intro s t ht h he
  obtain ⟨rest, rfl⟩ | ⟨o, d, rest, hx⟩ := step_effect h
  · rw [← he] at ht
    cases ht
  · rcases hx.stays_timed ht he with ⟨d, n, rfl⟩ | rfl
    · exact ⟨rfl, rfl, rfl, rfl, rfl, 0, by simp [newOutputs, State.fed]⟩
    · exact ⟨rfl, rfl, rfl, rfl, rfl, 1, by simp [newOutputs, State.fed]⟩

end Sys2Proof.Machine
end

section
/-! The spellings of the instructions (30_encoding.md R61, R69, R70, R73). What the whole-frame decoder takes for a frame
is said once (`FrameSpelling`, `decodeFrame_ok_iff`); the encoder's bytes are one such spelling. -/

namespace Sys2Proof

/-! Operand forms. -/

/-- R66: a control byte is recognised exactly as the kind it is the byte of. -/
theorem classify_eq_some_iff {c : Byte} {k : ControlField} : classify c = some k ↔ c = k.byte :=
  ⟨classify_some, fun h => h ▸ classify_byte k⟩

theorem isSup_byte (k : ControlField) : isSup k.byte = !k.isInfo := by simp [isSup, classify_byte]

theorem isInf_byte (k : ControlField) : isInf k.byte = k.isInfo := by simp [isInf, classify_byte]

theorem headerOk_bcc1 (a c : Byte) : headerOk a c (bcc1 a c) = true := by simp [headerOk]

/-- R68: an address is no reserved byte. -/
theorem not_reserved_of_isAddress {a : Byte} (h : isAddress a = true) : ¬ Reserved a := by
  rcases (isAddress_iff a).1 h with rfl | rfl <;> decide

/-- R68: a control byte is no reserved byte. -/
theorem ControlField.byte_not_reserved (k : ControlField) : ¬ Reserved k.byte := by
  cases k with
  | set | ua | disc => decide
  | rr n | rej n | info n => rcases bit_cases n with rfl | rfl <;> decide

/-- R68: a header checksum is no reserved byte. -/
theorem bcc1_not_reserved {a : Byte} (h : isAddress a = true) (k : ControlField) : ¬ Reserved (bcc1 a k.byte) := by
  rcases (isAddress_iff a).1 h with rfl | rfl <;> cases k with
  | set | ua | disc => decide
  | rr n | rej n | info n => rcases bit_cases n with rfl | rfl <;> decide

/-! The frame of a kind as an instruction. -/

/-- R61, R62: the domain of a frame's operands; only an Information frame has a payload. -/
theorem wf_ofFrame_iff (maxPayload : Nat) (a : Byte) (p : List Byte) (x : Byte) (k : ControlField) :
    (Instr.ofFrame a p x k).wf maxPayload = true ↔
      isAddress a = true ∧ (k.isInfo = true → p.length ≤ maxPayload) := by
  cases k with
  | set | ua | disc => simp [Instr.ofFrame, Instr.wf, ControlField.isInfo]
  | rr n | rej n | info n =>
    rcases bit_cases n with rfl | rfl <;> simp [Instr.ofFrame, Instr.wf, ControlField.isInfo]

/-- R64: an instruction encoded on the line is the frame of a kind, a supervisory one having no payload. -/
theorem encode_frame {i : Instr} {bytes : List Byte} (h : encode i = .frame bytes) :
    ∃ a k, (k.isInfo = false ∧ i = .ofFrame a [] 0 k ∧ bytes = encodeS a k.byte) ∨
      (k.isInfo = true ∧ ∃ p x, i = .ofFrame a p x k ∧ bytes = frameI a k.byte p x) := by
  cases i with
  | set a => cases h; exact ⟨a, .set, .inl ⟨rfl, rfl, rfl⟩⟩
  | ua a => cases h; exact ⟨a, .ua, .inl ⟨rfl, rfl, rfl⟩⟩
  | disc a => cases h; exact ⟨a, .disc, .inl ⟨rfl, rfl, rfl⟩⟩
  | rr0 a => cases h; exact ⟨a, .rr 0, .inl ⟨rfl, rfl, rfl⟩⟩
  | rr1 a => cases h; exact ⟨a, .rr 1, .inl ⟨rfl, rfl, rfl⟩⟩
  | rej0 a => cases h; exact ⟨a, .rej 0, .inl ⟨rfl, rfl, rfl⟩⟩
  | rej1 a => cases h; exact ⟨a, .rej 1, .inl ⟨rfl, rfl, rfl⟩⟩
  | i0 a p x => cases h; exact ⟨a, .info 0, .inr ⟨rfl, p, x, rfl, rfl⟩⟩
  | i1 a p x => cases h; exact ⟨a, .info 1, .inr ⟨rfl, p, x, rfl, rfl⟩⟩
  | openOp | send | receive | close | escFlag | escEsc | literal => cases h

/-! The protected region. -/

/-- R77: the marker does not occur in stuffed bytes. -/
theorem flag_not_mem_stuff (s : List Byte) : flag ∉ stuff s := by
  induction s with
  | nil => simp
  | cons b s ih =>
    by_cases hb : Reserved b
    · have hx : flag ≠ b ^^^ escMask := by rcases hb with rfl | rfl <;> decide
      simp [stuff_cons_reserved hb, hx, ih]
    · have hx : flag ≠ b := fun h => hb (.inl h.symm)
      simp [stuff_cons_plain hb, hx, ih]

/-- R79: destuffing inverts stuffing. -/
theorem destuff_stuff (s : List Byte) : destuff (stuff s) = some s := by
  induction s with
  | nil => rfl
  | cons b s ih =>
    by_cases hb : Reserved b
    · simp [stuff_cons_reserved hb, ih]
    · rw [stuff_cons_plain hb, destuff_cons_plain fun h => hb (.inr h), ih]
      rfl

/-- R109, R110: a region decodes when it destuffs to a payload within the bound and its checksum byte. -/
theorem decodeRegion_ok_iff {maxPayload : Nat} {t p : List Byte} {x : Byte} :
    decodeRegion maxPayload t = .ok (p, x) ↔ destuff t = some (p ++ [x]) ∧ p.length ≤ maxPayload := by
  unfold decodeRegion
  cases destuff t with
  | none => simp
  | some r =>
    rcases List.eq_nil_or_concat r with rfl | ⟨q, y, rfl⟩
    · simp
    · by_cases hq : q.length ≤ maxPayload
      · simp [hq]
        rintro rfl -
        exact hq
      · simp [hq]
        rintro rfl -
        exact Nat.lt_of_not_le hq

/-! Frames. -/

/-- R61, R70, R78: the bytes `used` spell the frame `i`. An Information frame has a spelling for every protected region
that destuffs to its payload and checksum, needless escapes included; a supervisory frame has one. -/
inductive FrameSpelling (maxPayload : Nat) : (used : List Byte) → (i : Instr) → Prop
  | supervisory {a : Byte} {k : ControlField} (ha : isAddress a = true) (hk : k.isInfo = false) :
    FrameSpelling maxPayload (encodeS a k.byte) (.ofFrame a [] 0 k)
  | information {a x : Byte} {k : ControlField} {t p : List Byte} (ha : isAddress a = true) (hk : k.isInfo = true)
    (hm : flag ∉ t) (ht : destuff t = some (p ++ [x])) (hp : p.length ≤ maxPayload) :
    FrameSpelling maxPayload ([flag, a, k.byte, bcc1 a k.byte] ++ (t ++ [flag])) (.ofFrame a p x k)

section frames

variable {maxPayload : Nat} {i : Instr}

/-- R60 to R66: a frame that decodes has the marker, an address, a control byte and their checksum in front. -/
theorem decodeFrame_ok_header {bytes rest : List Byte} (h : decodeFrame maxPayload bytes = .ok (i, rest)) :
    ∃ a k body, bytes = [flag, a, k.byte, bcc1 a k.byte] ++ body ∧ isAddress a = true ∧
      decodeBody maxPayload a k body = .ok (i, rest) := by
  unfold decodeFrame at h
  split at h
  swap
  · cases h
  rename_i m a c x body
  split at h
  · cases h
  rename_i hm
  split at h
  · cases h
  rename_i ha
  split at h
  · cases h
  rename_i k hc
  split at h
  swap
  · cases h
  rename_i hx
  refine ⟨a, k, body, ?_, Bool.not_eq_false _ ▸ ha, h⟩
  rw [Classical.not_not.1 hm, ← classify_some hc, (bcc1_self_iff a c x).1 hx]
  rfl

theorem decodeFrame_header {a : Byte} (ha : isAddress a = true) (k : ControlField) (body : List Byte) :
    decodeFrame maxPayload ([flag, a, k.byte, bcc1 a k.byte] ++ body) = decodeBody maxPayload a k body := by
  simp [decodeFrame, ha, classify_byte, headerOk_bcc1]

/-- R61, R70: what follows the header of a supervisory frame is the marker. -/
theorem decodeBody_supervisory {k : ControlField} (hk : k.isInfo = false) {a : Byte} {body rest : List Byte} :
    decodeBody maxPayload a k body = .ok (i, rest) ↔ body = flag :: rest ∧ i = .ofFrame a [] 0 k := by
  cases body with
  | nil => simp [decodeBody, hk]
  | cons b after =>
    by_cases hb : b = flag
    · simp [decodeBody, hk, hb, eq_comm, and_comm]
    · simp [decodeBody, hk, hb]

/-- R61, R70: what follows the header of an Information frame is a region up to the first marker. -/
theorem decodeBody_information {k : ControlField} (hk : k.isInfo = true) {a : Byte} {body rest : List Byte} :
    decodeBody maxPayload a k body = .ok (i, rest) ↔
      ∃ t p x, body = t ++ flag :: rest ∧ flag ∉ t ∧ decodeRegion maxPayload t = .ok (p, x) ∧ i = .ofFrame a p x k := by
  constructor
  · intro h
    simp only [decodeBody, hk, if_true] at h
    split at h
    · cases h
    rename_i t after hs
    split at h <;> cases h
    obtain ⟨rfl, hm⟩ := splitMarker_some hs
    exact ⟨t, _, _, rfl, hm, ‹_›, rfl⟩
  · rintro ⟨t, p, x, rfl, hm, hr, rfl⟩
    simp [decodeBody, hk, splitMarker_append hm, hr]

/-- R60, R61, R70: the whole-frame decoder takes the spellings of frames, wherever the bytes go on, and nothing else. -/
theorem decodeFrame_ok_iff {bytes rest : List Byte} :
    decodeFrame maxPayload bytes = .ok (i, rest) ↔ ∃ used, bytes = used ++ rest ∧ FrameSpelling maxPayload used i := by
  constructor
  · intro h
    obtain ⟨a, k, body, rfl, ha, hb⟩ := decodeFrame_ok_header h
    cases hk : k.isInfo with
    | false =>
      obtain ⟨rfl, rfl⟩ := (decodeBody_supervisory hk).1 hb
      exact ⟨_, rfl, .supervisory ha hk⟩
    | true =>
      obtain ⟨t, p, x, rfl, hm, hr, rfl⟩ := (decodeBody_information hk).1 hb
      obtain ⟨ht, hp⟩ := decodeRegion_ok_iff.1 hr
      exact ⟨_, by simp, .information ha hk hm ht hp⟩
  · rintro ⟨used, rfl, hs⟩
    cases hs with
    | supervisory ha hk =>
      exact (decodeFrame_header ha _ (flag :: rest)).trans ((decodeBody_supervisory hk).2 ⟨rfl, rfl⟩)
    | information ha hk hm ht hp =>
      rw [List.append_assoc, decodeFrame_header ha, decodeBody_information hk]
      exact ⟨_, _, _, by simp, hm, decodeRegion_ok_iff.2 ⟨ht, hp⟩, rfl⟩

/-- R61, R62: the operands of a spelled frame are in their domain. -/
theorem FrameSpelling.wf {used : List Byte} (h : FrameSpelling maxPayload used i) : i.wf maxPayload = true := by
  cases h with
  | supervisory ha hk => exact (wf_ofFrame_iff ..).2 ⟨ha, by simp [hk]⟩
  | information ha _ _ _ hp => exact (wf_ofFrame_iff ..).2 ⟨ha, fun _ => hp⟩

/-- R90, R91: the encoder writes a spelling of the frame it is given. -/
theorem FrameSpelling.of_encode {bytes : List Byte} (hw : i.wf maxPayload = true) (h : encode i = .frame bytes) :
    FrameSpelling maxPayload bytes i := by
  obtain ⟨a, k, ⟨hk, rfl, rfl⟩ | ⟨hk, p, x, rfl, rfl⟩⟩ := encode_frame h
  · exact .supervisory ((wf_ofFrame_iff ..).1 hw).1 hk
  · obtain ⟨ha, hp⟩ := (wf_ofFrame_iff ..).1 hw
    exact .information ha hk (flag_not_mem_stuff _) (destuff_stuff _) (hp hk)

theorem decodeFrame_encode {bytes : List Byte} (hw : i.wf maxPayload = true) (h : encode i = .frame bytes)
    (rest : List Byte) : decodeFrame maxPayload (bytes ++ rest) = .ok (i, rest) :=
  decodeFrame_ok_iff.2 ⟨bytes, rfl, .of_encode hw h⟩

end frames

/-! Symbols and commands. -/

/-- R69, R76, R108: a symbol is a byte that is not reserved, or an escape byte and a byte that is not the marker. -/
theorem decodeSymbol_ok {bytes rest : List Byte} {i : Instr} (h : decodeSymbol bytes = .ok (i, rest)) :
    (∃ v, ¬ Reserved v ∧ bytes = v :: rest ∧ i = .literal v) ∨
    (∃ x, x ≠ flag ∧ bytes = esc :: x :: rest ∧ i = symbolAfterEscape x) := by
  unfold decodeSymbol at h
  split at h
  · cases h
  rename_i b t
  split at h
  · cases h
  rename_i hf
  split at h
  · rename_i he
    split at h
    · cases h
    rename_i x u
    split at h <;> cases h
    exact .inr ⟨x, ‹_›, by rw [he], rfl⟩
  · cases h
    exact .inl ⟨b, not_or.2 ⟨hf, ‹_›⟩, rfl, rfl⟩

/-- R69: after an escape byte no byte stands for a literal that is reserved. -/
theorem wf_symbolAfterEscape (maxPayload : Nat) (x : Byte) : (symbolAfterEscape x).wf maxPayload = true := by
  unfold symbolAfterEscape
  split
  · rfl
  · rename_i hf
    split
    · rfl
    · rename_i he
      have unmask (r : Byte) (h : x ^^^ escMask = r) : x = r ^^^ escMask := by rw [← h, escMask_twice]
      simpa [Instr.wf] using ⟨fun h => hf (unmask _ h), fun h => he (unmask _ h)⟩

theorem decodeSymbol_wf {bytes rest : List Byte} {i : Instr} (h : decodeSymbol bytes = .ok (i, rest))
    (maxPayload : Nat) : i.wf maxPayload = true := by
  rcases decodeSymbol_ok h with ⟨v, hv, -, rfl⟩ | ⟨x, -, -, rfl⟩
  · obtain ⟨hf, he⟩ := not_or.1 hv
    simp [Instr.wf, hf, he]
  · exact wf_symbolAfterEscape maxPayload x

theorem decodeSymbol_encode {maxPayload : Nat} {i : Instr} {bytes : List Byte} (hw : i.wf maxPayload = true)
    (h : encode i = .symbol bytes) (rest : List Byte) : decodeSymbol (bytes ++ rest) = .ok (i, rest) := by
  cases i with
  | escFlag | escEsc => cases h; rfl
  | literal v =>
    cases h
    have hv : v ≠ flag ∧ v ≠ esc := by simpa [Instr.wf] using hw
    simp [decodeSymbol, hv]
  | _ => cases h

/-- R73, U9: a message that decodes has a timeout in the domain of `OPEN`. -/
theorem decodeCommand_wf {m : CmdMsg} {i : Instr} (h : decodeCommand m = .ok i) (maxPayload : Nat) :
    i.wf maxPayload = true := by
  obtain ⟨-, -, hd⟩ | ⟨-, ht, hd⟩ | ⟨-, ⟨p, hd⟩ | hd⟩ | ⟨-, hd⟩ := Machine.decodeCommand_cases m <;>
    cases hd.symm.trans h
  · exact decide_eq_true ht
  all_goals rfl

theorem decodeCommand_encode {maxPayload : Nat} {i : Instr} {m : CmdMsg} (hw : i.wf maxPayload = true)
    (h : encode i = .command m) : decodeCommand m = .ok i := by
  cases i with
  | openOp role n t =>
    cases h
    have ht : t ≠ 0 := Nat.one_le_iff_ne_zero.1 (by simpa [Instr.wf] using hw)
    simp [decodeCommand, CmdMsg.bare, ht]
  | send | receive | close => cases h; rfl
  | _ => cases h

/-! The statements on encodings. -/

theorem whole_ok_iff {r : Except DecodeError (Instr × List Byte)} {i : Instr} :
    whole r = .ok i ↔ r = .ok (i, []) := by
  match r with
  | .error e => simp [whole]
  | .ok (j, []) => simp [whole]
  | .ok (j, b :: t) => simp [whole]

/-- Settles O1: channel by channel; nothing follows the encoded bytes. -/
theorem decodeEncodeRoundTrip : Obligations.DecodeEncodeRoundTrip := by
  intro maxPayload i hw
  cases he : encode i with
  | frame bytes => exact whole_ok_iff.2 (List.append_nil bytes ▸ decodeFrame_encode hw he [])
  | command m => exact decodeCommand_encode hw he
  | symbol bytes => exact whole_ok_iff.2 (List.append_nil bytes ▸ decodeSymbol_encode hw he [])

/-- Settles O2: the bytes that follow are any. -/
theorem decodeStopsAtInstructionEnd : Obligations.DecodeStopsAtInstructionEnd :=
  fun _ _ _ rest hw => ⟨fun he => decodeFrame_encode hw he rest, fun he => decodeSymbol_encode hw he rest⟩

/-- Settles O3, channel by channel. -/
theorem decodedInstructionIsWellFormed : Obligations.DecodedInstructionIsWellFormed := by
  intro maxPayload e i h
  cases e with
  | frame bytes =>
    obtain ⟨used, -, hs⟩ := decodeFrame_ok_iff.1 (whole_ok_iff.1 h)
    exact hs.wf
  | command m => exact decodeCommand_wf h maxPayload
  | symbol bytes => exact decodeSymbol_wf (whole_ok_iff.1 h) maxPayload

/-- Settles O10: the two addresses with the nine control values, one by one. -/
theorem headerBytesNeverReserved : Obligations.HeaderBytesNeverReserved := ⟨by decide, by decide, by decide⟩

/-- R66: the kinds on the two sides of `IsSup` and `IsInf`. -/
theorem isSup_iff_mem (c : Byte) : isSup c = true ↔ c ∈ [(0x03 : Byte), 0x07, 0x0B, 0x05, 0x85, 0x01, 0x81] := by
  constructor
  · intro h
    cases hc : classify c with
    | none => simp [isSup, hc] at h
    | some k =>
      obtain rfl := classify_some hc
      cases k with
      | set | ua | disc => decide
      | rr n | rej n => rcases bit_cases n with rfl | rfl <;> decide
      | info n => simp [isSup_byte, ControlField.isInfo] at h
  · simp only [List.mem_cons, List.not_mem_nil, or_false]
    rintro (rfl | rfl | rfl | rfl | rfl | rfl | rfl) <;> rfl

theorem isInf_iff_mem (c : Byte) : isInf c = true ↔ c ∈ [(0x00 : Byte), 0x40] := by
  constructor
  · intro h
    cases hc : classify c with
    | none => simp [isInf, hc] at h
    | some k =>
      obtain rfl := classify_some hc
      cases k with
      | info n => rcases bit_cases n with rfl | rfl <;> decide
      | _ => simp [isInf_byte, ControlField.isInfo] at h
  · simp only [List.mem_cons, List.not_mem_nil, or_false]
    rintro (rfl | rfl) <;> rfl

/-- Settles O11: the table is the definition, the kinds go by their bytes. -/
theorem controlClassification : Obligations.ControlClassification := fun c =>
  ⟨rfl, fun _ => ⟨classify_eq_some_iff, classify_eq_some_iff, classify_eq_some_iff⟩, isSup_iff_mem c, isInf_iff_mem c⟩

/-- Settles O12: each entry computes from the role and from whether the kind is a command. -/
theorem addressByteTable : Obligations.AddressByteTable :=
  fun _ => ⟨rfl, rfl, rfl, rfl, rfl, rfl, rfl, rfl, rfl, rfl, rfl⟩

/-- Settles O13: the decoder runs on each word. -/
theorem specWordsDecode : Obligations.SpecWordsDecode := ⟨rfl, rfl, rfl, rfl, rfl, rfl, rfl, rfl, rfl, rfl⟩

end Sys2Proof
end

section
/-! The byte decoder on frames and symbols (42_frame_decoder.md R100 to R111). Bytes that complete nothing are put
together by `Consumes`; the header, the protected region and the marker of every spelling of a frame follow. -/

namespace Sys2Proof.Machine

variable {maxPayload : Nat} {d d' : Decoder}

/-! Bytes that complete nothing. -/

/-- R100: each of the bytes gives `NeedMore`, and they lead the decoder from `d` to `d'`. -/
def Consumes (maxPayload : Nat) (bytes : List Byte) (d d' : Decoder) : Prop :=
  feed maxPayload bytes d = d' ∧ feedResults maxPayload bytes d = List.replicate bytes.length .needMore

theorem Consumes.nil (d : Decoder) : Consumes maxPayload [] d d := ⟨rfl, rfl⟩

theorem Consumes.cons {b : Byte} {bytes : List Byte} {d₁ : Decoder}
    (hb : decodeByte maxPayload b d = (d₁, .needMore)) (h : Consumes maxPayload bytes d₁ d') :
    Consumes maxPayload (b :: bytes) d d' := by
  obtain ⟨hf, hr⟩ := h
  exact ⟨by rw [feed_cons, hb, hf], by rw [feedResults_cons, hb, hr]; rfl⟩

theorem Consumes.append {s t : List Byte} {d₁ : Decoder} (hs : Consumes maxPayload s d d₁)
    (ht : Consumes maxPayload t d₁ d') : Consumes maxPayload (s ++ t) d d' := by
  obtain ⟨hf, hr⟩ := hs
  obtain ⟨hf', hr'⟩ := ht
  exact ⟨by rw [feed_append, hf, hf'], by rw [feedResults_append, hr, hf, hr', List.length_append, List.replicate_add]⟩

/-- R100, R115 (a): a byte that completes a frame after bytes that complete nothing. -/
theorem Consumes.frame {bytes : List Byte} {b a c : Byte} {p : List Byte} {valid : Bool} {d₁ : Decoder}
    (h : Consumes maxPayload bytes d d₁) (hb : decodeByte maxPayload b d₁ = (d', .frame a c p valid)) :
    feedResults maxPayload (bytes ++ [b]) d =
        List.replicate ((bytes ++ [b]).length - 1) .needMore ++ [.frame a c p valid] ∧
      feed maxPayload (bytes ++ [b]) d = d' := by
  obtain ⟨hf, hr⟩ := h
  simp [feedResults_append, feed_append, hf, hr, hb]

/-! The header (R102 to R105). -/

theorem decodeByte_marker (hd : d.st = .idle ∨ d.st = .flagSeen) :
    decodeByte maxPayload flag d = ({ d with st := .flagSeen }, .needMore) := by
  rcases hd with hd | hd <;> simp [decodeByte, scanByte, hd, scanIdle, scanFlagSeen]

theorem decodeByte_address (hd : d.st = .flagSeen) {a : Byte} (ha : isAddress a = true) :
    decodeByte maxPayload a d = ({ d with addr := a, st := .addressSeen }, .needMore) := by
  have hf : a ≠ flag := fun h => not_reserved_of_isAddress ha (.inl h)
  simp [decodeByte, scanByte, hd, scanFlagSeen, hf, ha]

theorem decodeByte_control (hd : d.st = .addressSeen) (k : ControlField) :
    decodeByte maxPayload k.byte d = ({ d with ctrl := k.byte, st := .controlSeen }, .needMore) := by
  have hf : k.byte ≠ flag := fun h => k.byte_not_reserved (.inl h)
  simp [decodeByte, scanByte, hd, scanAddressSeen, hf, classify_byte]

theorem decodeByte_bcc1 (hd : d.st = .controlSeen) {a : Byte} {k : ControlField} (ha : d.addr = a)
    (hc : d.ctrl = k.byte) :
    decodeByte maxPayload (bcc1 a k.byte) d =
      (if k.isInfo then { d with buf := [], esc := false, st := .inPayload } else { d with st := .awaitEndS },
        .needMore) := by
  cases hk : k.isInfo <;>
    simp [decodeByte, scanByte, hd, scanControlSeen, ha, hc, headerOk_bcc1, isInf_byte, isSup_byte, hk]

/-- R102 to R105: the four header bytes of a frame. -/
theorem Consumes.header (hd : d.st = .idle ∨ d.st = .flagSeen) {a : Byte} (ha : isAddress a = true) (k : ControlField) :
    Consumes maxPayload [flag, a, k.byte, bcc1 a k.byte] d
      (if k.isInfo then { st := .inPayload, addr := a, ctrl := k.byte, esc := false, buf := [] }
        else { d with st := .awaitEndS, addr := a, ctrl := k.byte }) :=
  .cons (decodeByte_marker hd) <| .cons (decodeByte_address rfl ha) <| .cons (decodeByte_control rfl k) <|
    .cons (decodeByte_bcc1 rfl rfl rfl) <| .nil _

/-! The protected region (R107 to R109). -/

/-- R109: `Accumulate` on a buffer that still takes `v` and the bytes `r` after it. -/
theorem accumulate_fits {v : Byte} {r : List Byte} (h : (d.buf ++ v :: r).length ≤ maxPayload + 1) :
    accumulate maxPayload v d = ({ d with buf := d.buf ++ [v] }, .needMore) := by
  refine accumulate_room ?_ v
  simp only [List.length_append, List.length_cons] at h
  omega

/-- R108: the byte that ends an escape pair is accumulated as the byte it stands for. -/
theorem decodeByte_pairEnd (hs : d.st = .inPayload) (he : d.esc = false) {x : Byte} (hx : x ≠ flag) :
    decodeByte maxPayload x { d with esc := true } = accumulate maxPayload (x ^^^ escMask) d := by
  have hd : { d with esc := false } = d := he ▸ rfl
  rw [decodeByte_escaped (d := { d with esc := true }) hs rfl hx, hd]

/-- R79, R107 to R109: the bytes of a region without the marker are destuffed into the buffer, as long as it has room;
every spelling of the destuffed bytes is taken. -/
theorem Consumes.region {t r : List Byte} (hm : flag ∉ t) (ht : destuff t = some r) (hs : d.st = .inPayload)
    (he : d.esc = false) (hr : (d.buf ++ r).length ≤ maxPayload + 1) :
    Consumes maxPayload t d { d with buf := d.buf ++ r } := by
  induction t using destuff.induct generalizing d r with
  | case1 =>
    obtain rfl : [] = r := Option.some.inj ht
    simpa using Consumes.nil (maxPayload := maxPayload) d
  | case2 => simp [destuff_single] at ht
  | case3 b hb =>
    obtain rfl : [b] = r := by simpa [destuff_single, hb] using ht
    have hf : b ≠ flag := by simpa [eq_comm] using hm
    exact .cons ((decodeByte_plain hs he hf hb).trans (accumulate_fits hr)) (.nil _)
  | case4 x u ih =>
    obtain ⟨r', hu, rfl⟩ := Option.map_eq_some_iff.1 ((destuff_esc_cons x u).symm.trans ht)
    obtain ⟨-, hx, hmu⟩ : flag ≠ esc ∧ flag ≠ x ∧ flag ∉ u := by simpa using hm
    refine .cons (decodeByte_esc hs he) (.cons ((decodeByte_pairEnd hs he hx.symm).trans (accumulate_fits hr)) ?_)
    simpa using ih (d := { d with buf := d.buf ++ [x ^^^ escMask] }) hmu hu hs he (by simpa using hr)
  | case5 b x u hb ih =>
    obtain ⟨r', hu, rfl⟩ := Option.map_eq_some_iff.1 ((destuff_cons_plain hb (x :: u)).symm.trans ht)
    obtain ⟨hf, hmu⟩ : flag ≠ b ∧ flag ∉ x :: u := by simpa using hm
    refine .cons ((decodeByte_plain hs he hf.symm hb).trans (accumulate_fits hr)) ?_
    simpa using ih (d := { d with buf := d.buf ++ [b] }) hmu hu hs he (by simpa using hr)

/-! Frames (R106, R110, R111). -/

/-- R106: the marker completes a supervisory frame. -/
theorem scanByte_closeS (hd : d.st = .awaitEndS) :
    scanByte flag d = .frame d.addr d.ctrl [] 0 { d with st := .idle } := by
  simp [scanByte, hd, scanAwaitEndS]

theorem decodeByte_closeS (hd : d.st = .awaitEndS) :
    decodeByte maxPayload flag d = ({ d with st := .idle }, .frame d.addr d.ctrl [] true) := by
  simp [decodeByte, scanByte_closeS hd]

/-- R64: the instruction of a frame from its control byte. -/
theorem instrOfFrame_byte (a : Byte) (k : ControlField) (p : List Byte) (x : Byte) :
    instrOfFrame a k.byte p x = some (.ofFrame a p x k) := by simp [instrOfFrame, classify_byte]

/-- R115 (a), for every spelling: from `Idle` or `FlagSeen` its bytes give `NeedMore` up to the last and then the frame,
a supervisory one with an empty payload and as valid. -/
theorem feed_frameSpelling {used : List Byte} {i : Instr} (h : FrameSpelling maxPayload used i)
    (hd : d.st = .idle ∨ d.st = .flagSeen) :
    ∃ a c p x, instrOfFrame a c p x = some i ∧ (isSup c = true → p = [] ∧ x = 0) ∧
      feedResults maxPayload used d =
        List.replicate (used.length - 1) .needMore ++ [.frame a c p (xorFold p == x)] ∧
      (feed maxPayload used d).st = .idle := by
  cases h with
  | @supervisory a k ha hk =>
    have hh := Consumes.header (maxPayload := maxPayload) hd ha k
    obtain ⟨hres, hfeed⟩ := hh.frame (decodeByte_closeS (by simp [hk]))
    refine ⟨a, k.byte, [], 0, instrOfFrame_byte .., fun _ => ⟨rfl, rfl⟩, ?_, congrArg Decoder.st hfeed⟩
    simp only [hk] at hres
    exact hres
  | @information a x k t p ha hk hm ht hp =>
    have hh := Consumes.header (maxPayload := maxPayload) hd ha k
    simp only [hk, if_true] at hh
    have hr := hh.append (.region hm ht rfl rfl (by simpa using hp))
    obtain ⟨hres, hfeed⟩ := hr.frame (decodeByte_close rfl rfl rfl)
    rw [← List.append_assoc]
    exact ⟨a, k.byte, p, x, instrOfFrame_byte .., by simp [isSup_byte, hk], hres, congrArg Decoder.st hfeed⟩

/-- Settles O17: what the whole-frame decoder takes is a spelling. -/
theorem byteDecoderAgreesWithFrameDecoder : Obligations.ByteDecoderAgreesWithFrameDecoder := by
  intro maxPayload i bytes rest d h hd
  obtain ⟨used, rfl, hs⟩ := decodeFrame_ok_iff.1 h
  obtain ⟨a, c, p, x, hi, hsup, hres, -⟩ := feed_frameSpelling hs hd
  exact ⟨used, a, c, p, x, rfl, hi, hsup, hres⟩

/-! Symbols in a protected region (R76, R107, R108). -/

theorem feed_plain (hs : d.st = .inPayload) (he : d.esc = false) {v : Byte} (hv : ¬ Reserved v) :
    feed maxPayload [v] d = (accumulate maxPayload v d).1 := by
  obtain ⟨hf, hb⟩ := not_or.1 hv
  rw [feed_cons, decodeByte_plain hs he hf hb, feed_nil]

theorem feed_escapePair (hs : d.st = .inPayload) (he : d.esc = false) {x : Byte} (hx : x ≠ flag) :
    feed maxPayload [esc, x] d = (accumulate maxPayload (x ^^^ escMask) d).1 := by
  rw [feed_cons, decodeByte_esc hs he, feed_cons, decodeByte_pairEnd hs he hx, feed_nil]

/-- R109: what `Accumulate` leaves. -/
theorem accumulate_decoder (v : Byte) (d : Decoder) :
    (accumulate maxPayload v d).1 =
      if d.buf.length = maxPayload + 1 then { d with st := .idle, esc := false, buf := [] }
      else { d with buf := d.buf ++ [v] } := by
  split
  · rw [accumulate_full ‹_›]
  · rw [accumulate_room ‹_›]

/-- Settles O20: a symbol's bytes accumulate its value. -/
theorem symbolsAccumulate : Obligations.SymbolsAccumulate := by
  intro s v he hs hesc
  simp only [exec, execEscFlag, execEscEsc, execLiteral, takeSymbol_waiting he, ← accumulate_decoder]
  refine ⟨?_, ?_, fun hf hb => ?_⟩
  · exact congrArg (fun d => Host.Outcome.next { s with dec := d }) (feed_escapePair hs hesc (x := 0x5E) (by decide))
  · exact congrArg (fun d => Host.Outcome.next { s with dec := d }) (feed_escapePair hs hesc (x := 0x5D) (by decide))
  · rw [feed_plain hs hesc (not_or.2 ⟨hf, hb⟩)]

/-! Symbols outside a protected region (R102 to R106). -/

/-- R102: noise between frames. -/
theorem decodeByte_noise (hs : d.st = .idle) {b : Byte} (hb : b ≠ flag) :
    decodeByte maxPayload b d = (d, .needMore) := by
  have hd : { d with st := .idle } = d := hs ▸ rfl
  simp [decodeByte, scanByte, hs, scanIdle, hb, hd]

/-- R102 to R106, R68: the escape byte is no byte of a header, and ends what was in progress. -/
theorem decodeByte_esc_outside (hl : d.Legal) (hs : d.st ≠ .inPayload) :
    decodeByte maxPayload esc d = ({ d with st := .idle }, .needMore) := by
  cases hd : d.st with
  | idle => simp [decodeByte, scanByte, hd, scanIdle]
  | flagSeen => simp [decodeByte, scanByte, hd, scanFlagSeen, show isAddress esc = false from rfl]
  | addressSeen => simp [decodeByte, scanByte, hd, scanAddressSeen, show classify esc = none from rfl]
  | controlSeen =>
    obtain ⟨ha, hc⟩ : isAddress d.addr = true ∧ (classify d.ctrl).isSome = true := by simpa [hd] using hl.2
    obtain ⟨k, hk⟩ := Option.isSome_iff_exists.1 hc
    have hx : headerOk d.addr d.ctrl esc = false := by
      rw [Bool.eq_false_iff, Ne, bcc1_self_iff, classify_some hk]
      exact fun h => bcc1_not_reserved ha k (.inr h.symm)
    simp [decodeByte, scanByte, hd, scanControlSeen, hx]
  | awaitEndS => simp [decodeByte, scanByte, hd, scanAwaitEndS]
  | inPayload => exact absurd hd hs

theorem feed_escapePair_outside (hl : d.Legal) (hs : d.st ≠ .inPayload) {x : Byte} (hx : x ≠ flag) :
    feed maxPayload [esc, x] d = { d with st := .idle } := by
  rw [feed_cons, decodeByte_esc_outside hl hs, feed_cons, decodeByte_noise rfl hx, feed_nil]

/-- Settles O21: the escape byte ends what was in progress, and the byte after it is noise. -/
theorem symbolsOutsideARegion : Obligations.SymbolsOutsideARegion := by
  intro s v he hl
  refine ⟨fun hs => ⟨?_, ?_⟩, fun hs hv => ?_, fun i hi => ?_⟩
  · exact (takeSymbol_waiting he _).trans (by rw [← esc_eq, feed_escapePair_outside hl hs (by decide)])
  · exact (takeSymbol_waiting he _).trans (by rw [← esc_eq, feed_escapePair_outside hl hs (by decide)])
  · exact (takeSymbol_waiting he _).trans (by rw [feed_cons, decodeByte_noise hs hv, feed_nil])
  · cases i with
    | escFlag | escEsc | literal => exact ⟨_, takeSymbol_waiting he _⟩
    | _ => cases hi

/-! The step that completes an instruction (R73, R101). -/

section step

variable {s : State} {rest : List Event} {i : Instr}

/-- R73: a command that is taken runs its operation. -/
theorem step_command {m : CmdMsg} (hp : s.pending = .cmd m :: rest) (he : s.eng = .idle) (hm : decodeCommand m = .ok i) :
    step s = exec i { s with pending := rest } := by
  rw [step_head hp ((enabled_cmd _ m).2 (.inl he))]
  simp only [handle, cmdStep, hm]

/-- R101: a byte that completes a frame runs it. -/
theorem step_frame {b a c x : Byte} {p : List Byte} (hp : s.pending = .rxByte b :: rest) (he : s.eng ≠ .idle)
    (hb : scanByte b s.dec = .frame a c p x d) (hi : instrOfFrame a c p x = some i) :
    step s = exec i { s with pending := rest, dec := d } := by
  rw [step_head hp ((enabled_rxByte _ b).2 he)]
  simp only [handle, rxStep, hb, hi]

/-- R101: a byte that completes a symbol runs it. -/
theorem step_symbol {b : Byte} (hp : s.pending = .rxByte b :: rest) (he : s.eng ≠ .idle)
    (hb : scanByte b s.dec = .symbol i d) : step s = exec i { s with pending := rest, dec := d } := by
  rw [step_head hp ((enabled_rxByte _ b).2 he)]
  simp only [handle, rxStep, hb]

end step

/-- R107, R108: in a protected region the byte that ends a symbol of the whole-symbol decoder completes that symbol. -/
theorem scanByte_of_decodeSymbol (hs : d.st = .inPayload) {b : Byte} {i : Instr}
    (h : decodeSymbol (if d.esc then [esc, b] else [b]) = .ok (i, [])) :
    scanByte b d = .symbol i { d with esc := false } := by
  cases he : d.esc with
  | true =>
    rw [he, if_pos rfl] at h
    rcases decodeSymbol_ok h with ⟨v, -, hb, -⟩ | ⟨x, hx, hb, rfl⟩
    · cases hb
    · cases hb
      simp [scanByte, hs, scanInPayload, he, hx]
  | false =>
    rw [he, if_neg (by simp)] at h
    rcases decodeSymbol_ok h with ⟨v, hv, hb, rfl⟩ | ⟨x, -, hb, -⟩
    · cases hb
      obtain ⟨hf, hne⟩ := not_or.1 hv
      have hd : { d with esc := false } = d := he ▸ rfl
      rw [hd]
      simp [scanByte, hs, scanInPayload, he, hf, hne]
    · cases hb

/-- Settles O47: what the event completes is the decoded instruction. -/
theorem stepRunsTheDecodedInstruction : Obligations.StepRunsTheDecodedInstruction := by
  intro s rest i
  refine ⟨fun m hp he hm => step_command hp he hm, fun hp he hs hi => ?_, fun p x hp he hs hesc hb hi => ?_,
    fun b hp he hs hsym => ?_⟩
  · exact step_frame hp he (scanByte_closeS hs) hi
  · exact step_frame hp he (scanByte_close hs hesc hb) hi
  · exact step_symbol hp he (scanByte_of_decodeSymbol hs hsym)

end Sys2Proof.Machine
end

section
/-! Stuffing and the checksums (40_stuffing_checksum.md R76 to R84). A checksum that passes is a fold to zero, so a
change passes exactly when its flips fold to zero. -/

namespace Sys2Proof

/-! Stuffing (R77). -/

/-- R77 (d). -/
theorem stuff_append (s t : List Byte) : stuff (s ++ t) = stuff s ++ stuff t := by
  induction s with
  | nil => rfl
  | cons b s ih =>
    by_cases hb : Reserved b
    · simp [stuff_cons_reserved hb, ih]
    · simp [stuff_cons_plain hb, ih]

/-- R77 (a): each reserved byte costs one byte more. -/
theorem stuff_length (s : List Byte) : (stuff s).length = s.length + s.countP fun b => b == flag || b == esc := by
  induction s with
  | nil => rfl
  | cons b s ih =>
    by_cases hb : Reserved b
    · simp [stuff_cons_reserved hb, ih, hb]
      omega
    · simp [stuff_cons_plain hb, ih, hb]
      omega

/-- R77 (c): the escape byte begins a pair, and no other byte of stuffed bytes is an escape byte. -/
theorem stuff_esc_followed {s l r : List Byte} (h : stuff s = l ++ esc :: r) :
    ∃ u, r = 0x5E :: u ∨ r = 0x5D :: u := by
  induction s generalizing l with
  | nil => simp at h
  | cons b s ih =>
    by_cases hb : Reserved b
    · rw [stuff_cons_reserved hb] at h
      have hx := reserved_escaped hb
      match l with
      | [] =>
        obtain ⟨-, rfl⟩ := List.cons.inj h
        exact ⟨stuff s, hx.imp (congrArg (· :: stuff s)) (congrArg (· :: stuff s))⟩
      | [_] =>
        obtain ⟨hesc, -⟩ := List.cons.inj (List.cons.inj h).2
        rw [hesc] at hx
        exact absurd hx (by decide)
      | _ :: _ :: l => exact ih (List.cons.inj (List.cons.inj h).2).2
    · rw [stuff_cons_plain hb] at h
      match l with
      | [] => exact absurd (.inr (List.cons.inj h).1) hb
      | _ :: l => exact ih (List.cons.inj h).2

/-- R77 (c): an escape byte at the end would have nothing after it. -/
theorem stuff_getLast?_ne_esc (s : List Byte) : (stuff s).getLast? ≠ some esc := by
  intro h
  obtain ⟨l, hl⟩ := List.getLast?_eq_some_iff.1 h
  obtain ⟨u, hu | hu⟩ := stuff_esc_followed hl <;> cases hu

/-- Settles O5: the bounds follow from the exact length, the upper one by `stuff_length_le`. -/
theorem stuffProperties : Obligations.StuffProperties := fun s t =>
  ⟨stuff_length s ▸ Nat.le_add_right _ _, Machine.stuff_length_le s, stuff_length s, flag_not_mem_stuff s,
    fun _ _ => stuff_esc_followed, stuff_getLast?_ne_esc s, stuff_append s t⟩

/-! Checksums (R80 to R84). -/

/-- R82: the comparison of the last byte with the fold of the others. -/
theorem payloadOk_concat_iff (p : List Byte) (x : Byte) : payloadOk (p ++ [x]) = true ↔ xorFold p = x := by
  simpa [payloadOk] using eq_comm

/-- R82: the check is a fold to zero. -/
theorem payloadOk_iff {r : List Byte} (hr : r ≠ []) : payloadOk r = true ↔ xorFold r = 0 := by
  obtain ⟨p, x, rfl⟩ := (List.eq_nil_or_concat r).resolve_left hr
  simp [payloadOk_concat_iff, xorFold_append]

/-- R80: the header check is a fold to zero as well. -/
theorem headerOk_iff (a c x : Byte) : headerOk a c x = true ↔ xorFold [a, c, x] = 0 := by
  rw [bcc1_self_iff, eq_comm, ← BitVec.xor_eq_zero_iff]
  simp [BitVec.xor_assoc]

/-- Settles O6: one byte alone is its own fold. -/
theorem payloadCheckIsZeroFold : Obligations.PayloadCheckIsZeroFold :=
  ⟨payloadOk_concat_iff, fun _ => payloadOk_iff, fun x => by simp [payloadOk_iff]⟩

/-- R81, R84: each bit position is folded by itself, so the fold of the differences is the difference of the folds. -/
theorem xorFold_zipWith_xor {r r' : List Byte} (h : r.length = r'.length) :
    xorFold (List.zipWith (· ^^^ ·) r r') = xorFold r ^^^ xorFold r' := by
  induction r generalizing r' with
  | nil => simp [List.length_eq_zero_iff.1 h.symm]
  | cons b r ih =>
    match r' with
    | b' :: r' =>
      simp only [List.zipWith_cons_cons, xorFold_cons, ih (Nat.succ.inj h)]
      ac_rfl

/-- R84: flipping the bits `m` of one byte flips the same bits of the fold. -/
theorem xorFold_set_xor {r : List Byte} {i : Nat} (h : i < r.length) (m : Byte) :
    xorFold (r.set i (r[i] ^^^ m)) = xorFold r ^^^ m := by
  induction r generalizing i with
  | nil => simp at h
  | cons b r ih =>
    cases i with
    | zero =>
      simp only [List.set_cons_zero, List.getElem_cons_zero, xorFold_cons]
      ac_rfl
    | succ i => simp [ih (Nat.lt_of_succ_lt_succ h), BitVec.xor_assoc]

/-- R84: from a region that passes, another of the same length passes exactly when the differences fold to zero. -/
theorem payloadOk_iff_flips {r r' : List Byte} (hr : r ≠ []) (hl : r.length = r'.length) (h : payloadOk r = true) :
    payloadOk r' = true ↔ xorFold (List.zipWith (· ^^^ ·) r r') = 0 := by
  have hr' : r' ≠ [] := List.ne_nil_of_length_pos (hl ▸ List.length_pos_iff.2 hr)
  rw [payloadOk_iff hr', xorFold_zipWith_xor hl, (payloadOk_iff hr).1 h]
  simp

theorem twoPow_ne_zero {j : Nat} (hj : j < 8) : BitVec.twoPow 8 j ≠ 0 := fun h => by
  simpa [hj] using congrArg (BitVec.getLsbD · j) h

/-- R84: a single flipped bit is the whole difference, which is not zero. -/
theorem payloadOk_flip_bit {r : List Byte} {i j : Nat} (hi : i < r.length) (hj : j < 8) (h : payloadOk r = true) :
    payloadOk (r.set i (r[i] ^^^ BitVec.twoPow 8 j)) = false := by
  have hr : r ≠ [] := List.ne_nil_of_length_pos (Nat.zero_lt_of_lt hi)
  rw [Bool.eq_false_iff, ne_eq, payloadOk_iff (by simpa using hr), xorFold_set_xor hi, (payloadOk_iff hr).1 h]
  simpa using twoPow_ne_zero hj

/-- R84: the header bytes are a region of three bytes. -/
theorem headerOk_iff_flips {a c x : Byte} (da dc dx : Byte) (h : headerOk a c x = true) :
    headerOk (a ^^^ da) (c ^^^ dc) (x ^^^ dx) = true ↔ da ^^^ dc ^^^ dx = 0 := by
  have hfold : xorFold [a ^^^ da, c ^^^ dc, x ^^^ dx] = xorFold [a, c, x] ^^^ xorFold [da, dc, dx] :=
    xorFold_zipWith_xor (r := [a, c, x]) (r' := [da, dc, dx]) rfl
  rw [headerOk_iff, hfold, (headerOk_iff a c x).1 h]
  simp [BitVec.xor_assoc]

/-- Settles O7: the checks are folds to zero, and a change folds like its flips. -/
theorem checksumsDetectFlips : Obligations.ChecksumsDetectFlips :=
  ⟨fun _ _ => payloadOk_iff_flips, fun _ _ _ => payloadOk_flip_bit, fun _ _ _ => headerOk_iff_flips⟩

/-! Destuffing (R78, R79). -/

/-- R79: stuffing has a left inverse. -/
theorem stuff_injective {s t : List Byte} (h : stuff s = stuff t) : s = t :=
  Option.some.inj (by rw [← destuff_stuff s, h, destuff_stuff])

/-- R78: only an unpaired escape byte at the end keeps bytes from being destuffed. -/
theorem destuff_eq_none {t : List Byte} (h : destuff t = none) : ∃ t' r, t = t' ++ [esc] ∧ destuff t' = some r := by
  induction t using destuff.induct with
  | case1 => cases h
  | case2 => exact ⟨[], [], rfl, rfl⟩
  | case3 b hb => simp [destuff_single, hb] at h
  | case4 x u ih =>
    obtain ⟨t', r, rfl, ht⟩ := ih (by simpa using h)
    exact ⟨esc :: x :: t', (x ^^^ escMask) :: r, rfl, by simp [ht]⟩
  | case5 b x u hb ih =>
    obtain ⟨t', r, hu, ht⟩ := ih (by simpa [destuff_cons_plain hb] using h)
    exact ⟨b :: t', b :: r, by rw [hu]; rfl, by simp [destuff_cons_plain hb, ht]⟩

end Sys2Proof
end

section
/-! The byte decoder destuffs a protected region from its beginning (40_stuffing_checksum.md R79). -/

namespace Sys2Proof.Machine

variable {maxPayload : Nat} {d : Decoder} {t r : List Byte}

/-- R79: bytes without an unpaired escape byte leave the destuffed bytes in the buffer. -/
theorem feed_region (hm : flag ∉ t) (ht : destuff t = some r) (hs : d.st = .inPayload) (he : d.esc = false)
    (hb : d.buf = []) (hr : r.length ≤ maxPayload + 1) : feed maxPayload t d = { d with buf := r } := by
  simpa [hb] using (Consumes.region hm ht hs he (by simpa [hb] using hr)).1

/-- R79, R107: an escape byte after them stays pending. -/
theorem feed_region_esc (hm : flag ∉ t) (ht : destuff t = some r) (hs : d.st = .inPayload) (he : d.esc = false)
    (hb : d.buf = []) (hr : r.length ≤ maxPayload + 1) :
    feed maxPayload (t ++ [esc]) d = { d with esc := true, buf := r } := by
  rw [feed_append, feed_region hm ht hs he hb hr]
  exact congrArg Prod.fst (decodeByte_esc (d := { d with buf := r }) hs he)

/-- Settles O4: a region that does not destuff ends in an escape byte, and the bytes before it destuff. -/
theorem destuffInvertsStuffAndDecoderDestuffs : Obligations.DestuffInvertsStuffAndDecoderDestuffs := by
  refine ⟨destuff_stuff, fun _ _ => stuff_injective, ⟨[0x5D], [esc, 0x7D], [0x5D], by decide⟩,
    fun maxPayload d t hm hs he hb => ⟨fun r ht => feed_region hm ht hs he hb, fun hnone => ?_⟩⟩
  obtain ⟨t', r, rfl, ht'⟩ := destuff_eq_none hnone
  refine ⟨t', r, rfl, ht', fun hr => ?_⟩
  have hfeed := feed_region_esc (fun h => hm (List.mem_append_left _ h)) ht' hs he hb hr
  exact ⟨hfeed, by rw [hfeed, decodeByte_escaped_marker (d := { d with esc := true, buf := r }) hs rfl]⟩

end Sys2Proof.Machine
end

section
/-! The frame encoder (41_frame_encoder.md R90 to R92): the length of an Information frame, and where its markers are. -/

namespace Sys2Proof

/-- R91: four header bytes, the stuffed payload with its checksum, and the closing marker. -/
theorem encodeI_length (a c : Byte) (p : List Byte) :
    (encodeI a c p).length = p.length + 6 + (p ++ [xorFold p]).countP fun b => b == flag || b == esc := by
  have h := stuff_length (p ++ [xorFold p])
  simp only [encodeI, frameI, List.length_append, List.length_cons, List.length_nil] at h ⊢
  omega

/-- Settles O8: the bytes compute, the exact length gives the lower bound, the upper one is `encodeI_length_le`. -/
theorem informationFrameBytesAndLength : Obligations.InformationFrameBytesAndLength := by
  intro maxPayload a c p hp
  have hlen := encodeI_length a c p
  have hmost := Machine.encodeI_length_le a c p
  exact ⟨rfl, hlen, by omega, by omega, rfl⟩

/-- R68, R92: the header of a frame of the link holds no marker. -/
theorem flag_not_mem_header {a : Byte} (ha : isAddress a = true) (k : ControlField) :
    flag ∉ [a, k.byte, bcc1 a k.byte] := by
  have hne {b : Byte} (hb : ¬ Reserved b) : flag ≠ b := fun h => hb (.inl h.symm)
  simp only [List.mem_cons, List.not_mem_nil, or_false, not_or]
  exact ⟨hne (not_reserved_of_isAddress ha), hne k.byte_not_reserved, hne (bcc1_not_reserved ha k)⟩

/-- What stands between the two markers of a frame (R90, R91). -/
def frameBody (k : ControlField) (a : Byte) (p : List Byte) : List Byte :=
  [a, k.byte, bcc1 a k.byte] ++ if k.isInfo then stuff (p ++ [xorFold p]) else []

theorem encodeField_eq (k : ControlField) (a : Byte) (p : List Byte) :
    encodeField k a p = flag :: frameBody k a p ++ [flag] := by
  cases hk : k.isInfo <;> simp [encodeField, frameBody, encodeS, encodeI, frameI, hk]

theorem flag_not_mem_frameBody {a : Byte} (ha : isAddress a = true) (k : ControlField) (p : List Byte) :
    flag ∉ frameBody k a p := by
  rw [frameBody, List.mem_append, not_or]
  refine ⟨flag_not_mem_header ha k, ?_⟩
  cases k.isInfo with
  | false => exact List.not_mem_nil
  | true => exact flag_not_mem_stuff _

/-- Settles O9: the format goes by the kind, and neither the header nor a stuffed region holds a marker. -/
theorem framesHaveTwoMarkers : Obligations.FramesHaveTwoMarkers := fun a k p ha =>
  ⟨fun hk => by simp [encodeField, hk], fun hk => by simp [encodeField, hk],
    frameBody k a p, encodeField_eq k a p, flag_not_mem_frameBody ha k p⟩

end Sys2Proof
end

section
/-! The byte decoder as a whole (42_frame_decoder.md R113 to R115): the transition table, the marker in every state, the
three places of a `FramingError`, and the bytes of an encoded frame. -/

namespace Sys2Proof

/-! The escape byte is no byte of a header (R68). -/

@[simp] theorem isAddress_esc : isAddress esc = false := rfl

@[simp] theorem classify_esc : classify esc = none := rfl

end Sys2Proof

namespace Sys2Proof.Machine

variable {maxPayload : Nat} {d : Decoder} {b : Byte}

/-- Settles O16: the encoder writes a spelling of the frame. -/
theorem frameBytesGiveTheFrame : Obligations.FrameBytesGiveTheFrame :=
  fun _ _ _ _ hw he hd => feed_frameSpelling (.of_encode hw he) hd

/-! The transition table (R114). -/

/-- R114: what the column of a byte says of it. -/
inductive ByteClass.Spec (b : Byte) : ByteClass → Prop
  | marker (h : b = flag) : Spec b .marker
  | escape (he : b = esc) : Spec b .escape
  | addressOrControl (hf : b ≠ flag) (ha : isAddress b = true) (hc : (classify b).isSome = true) :
    Spec b .addressOrControl
  | otherControl (hf : b ≠ flag) (he : b ≠ esc) (ha : isAddress b = false) (hc : (classify b).isSome = true) :
    Spec b .otherControl
  | other (hf : b ≠ flag) (he : b ≠ esc) (ha : isAddress b = false) (hc : (classify b).isSome = false) : Spec b .other

theorem byteClass_spec (b : Byte) : ByteClass.Spec b (byteClass b) := by
  unfold byteClass
  split
  · exact .marker ‹_›
  rename_i hf
  split
  · exact .escape ‹_›
  rename_i he
  split
  · rename_i ha
    exact .addressOrControl hf ((isAddress_iff b).2 ha) (by rcases ha with rfl | rfl <;> rfl)
  rename_i ha
  have ha' : isAddress b = false := Bool.eq_false_iff.2 fun h => ha ((isAddress_iff b).1 h)
  split
  · rename_i hc
    refine .otherControl hf he ha' ?_
    simp only [List.mem_cons, List.not_mem_nil, or_false] at hc
    rcases hc with rfl | rfl | rfl | rfl | rfl | rfl | rfl <;> rfl
  · rename_i hc
    refine .other hf he ha' ?_
    simp_all [classify]

/-- R105, R68: neither reserved byte is the checksum of a legal header. -/
theorem headerOk_reserved (ha : isAddress d.addr = true) (hc : (classify d.ctrl).isSome = true) (hb : Reserved b) :
    headerOk d.addr d.ctrl b = false := by
  obtain ⟨k, hk⟩ := Option.isSome_iff_exists.1 hc
  rw [Bool.eq_false_iff, Ne, bcc1_self_iff, classify_some hk]
  rintro rfl
  exact bcc1_not_reserved ha k hb

/-- R105: the row `ControlSeen`. -/
theorem decodeByte_controlSeen (hl : d.Legal) (hs : d.st = .controlSeen) :
    decodeByte maxPayload b d = decoderTable maxPayload b d := by
  obtain ⟨ha, hc⟩ : isAddress d.addr = true ∧ (classify d.ctrl).isSome = true := by simpa [hs] using hl.2
  have mismatch (hb : Reserved b) : decodeByte maxPayload b d = ({ d with st := .idle }, .needMore) := by
    simp [decodeByte, scanByte, hs, scanControlSeen, headerOk_reserved ha hc hb]
  have checked : decodeByte maxPayload b d =
      if b ≠ d.addr ^^^ d.ctrl then ({ d with st := .idle }, .needMore)
      else if isInf d.ctrl then ({ d with st := .inPayload, buf := [], esc := false }, .needMore)
      else ({ d with st := .awaitEndS }, .needMore) := by
    by_cases hx : b = d.addr ^^^ d.ctrl
    · rcases isSup_or_isInf hc with hk | hk
      · simp [decodeByte, scanByte, hs, scanControlSeen, headerOk, bcc1, hx, hk, not_isInf_of_isSup hk]
      · simp [decodeByte, scanByte, hs, scanControlSeen, headerOk, bcc1, hx, hk]
    · simp [decodeByte, scanByte, hs, scanControlSeen, headerOk, bcc1, hx]
  unfold decoderTable
  rw [hs]
  have hcls := byteClass_spec b
  generalize byteClass b = cls at hcls
  cases hcls with
  | marker h => exact mismatch (.inl h)
  | escape he => exact mismatch (.inr he)
  | addressOrControl | otherControl | other => exact checked

/-- R110: the marker in a protected region with no escape pending. -/
theorem decodeByte_closeI (hs : d.st = .inPayload) (he : d.esc = false) :
    decodeByte maxPayload flag d =
      if d.buf = [] then ({ d with st := .idle }, .framingError)
      else ({ d with st := .idle, buf := [] }, .frame d.addr d.ctrl d.buf.dropLast (payloadOk d.buf)) := by
  rcases List.eq_nil_or_concat d.buf with hb | ⟨p, x, hb⟩
  · rw [if_pos hb, decodeByte_close_empty hs he hb]
  · rw [List.concat_eq_append] at hb
    have hv : payloadOk d.buf = (xorFold p == x) := by
      rw [hb, Bool.eq_iff_iff, payloadOk_concat_iff, beq_iff_eq]
    rw [if_neg (by simp [hb]), decodeByte_close hs he hb, hv, hb, List.dropLast_concat]

/-- R107, R108: the two rows `InPayload`. -/
theorem decodeByte_inPayload (hs : d.st = .inPayload) :
    decodeByte maxPayload b d = decoderTable maxPayload b d := by
  obtain ⟨st, addr, ctrl, es, buf⟩ := d
  obtain rfl : st = .inPayload := hs
  unfold decoderTable
  have hcls := byteClass_spec b
  generalize byteClass b = cls at hcls
  cases es with
  | false =>
    cases hcls with
    | marker h => exact h ▸ decodeByte_closeI rfl rfl
    | escape he => exact he ▸ decodeByte_esc rfl rfl
    | addressOrControl hf ha => exact decodeByte_plain rfl rfl hf fun he => not_reserved_of_isAddress ha (.inr he)
    | otherControl hf he | other hf he => exact decodeByte_plain rfl rfl hf he
  | true =>
    cases hcls with
    | marker h => exact h ▸ decodeByte_escaped_marker rfl rfl
    | escape he => exact he ▸ decodeByte_escaped rfl rfl esc_ne_flag
    | addressOrControl hf | otherControl hf | other hf => exact decodeByte_escaped rfl rfl hf

/-- Settles O14, row by row. -/
theorem decoderFollowsTheTable : Obligations.DecoderFollowsTheTable := by
  intro maxPayload b d hl
  have hcls := byteClass_spec b
  cases hs : d.st with
  | controlSeen => exact decodeByte_controlSeen hl hs
  | inPayload => exact decodeByte_inPayload hs
  | idle | flagSeen | addressSeen | awaitEndS =>
    unfold decoderTable
    rw [hs]
    generalize byteClass b = cls at hcls
    cases hcls <;> simp [decodeByte, scanByte, scanIdle, scanFlagSeen, scanAddressSeen, scanAwaitEndS, *]

/-! The marker (R115 (b)). -/

/-- R114: the column of the marker. -/
theorem decodeByte_flag_st (hl : d.Legal) :
    (decodeByte maxPayload flag d).1.st =
      match d.st with
      | .idle | .flagSeen | .addressSeen => .flagSeen
      | .controlSeen | .awaitEndS | .inPayload => .idle := by
  rw [decoderFollowsTheTable maxPayload flag d hl]
  unfold decoderTable
  rw [show byteClass flag = .marker from rfl]
  cases d.st with
  | inPayload =>
    cases d.esc with
    | true => rfl
    | false => dsimp only; split <;> rfl
  | _ => rfl

/-- Settles O18: after one marker the decoder is in `Idle` or `FlagSeen`, where the next is an opening one. -/
theorem twoMarkersResynchronise : Obligations.TwoMarkersResynchronise := by
  intro maxPayload d hl
  have h := decodeByte_flag_st (maxPayload := maxPayload) hl
  refine ⟨?_, ?_, ?_⟩
  · have hst : (decodeByte maxPayload flag d).1.st = .idle ∨ (decodeByte maxPayload flag d).1.st = .flagSeen := by
      rw [h]
      cases d.st <;> simp
    exact congrArg (fun r => r.1.st) (decodeByte_marker hst)
  · rintro (hs | hs | hs) <;> exact h.trans (by rw [hs])
  · rintro (hs | hs | hs) <;> exact h.trans (by rw [hs])

/-! Framing errors (R113). -/

theorem accumulate_framingError_iff (v : Byte) :
    (accumulate maxPayload v d).2 = .framingError ↔ d.buf.length = maxPayload + 1 := by
  by_cases h : d.buf.length = maxPayload + 1
  · simp [accumulate_full h, h]
  · simp [accumulate_room h, h]

/-- R102 to R106: outside a protected region a byte is taken silently, but for the marker that ends a supervisory
frame. -/
theorem decodeByte_outside (hs : d.st ≠ .inPayload) (he : d.st = .awaitEndS → b ≠ flag) :
    (decodeByte maxPayload b d).2 = .needMore := by
  cases hd : d.st with
  | inPayload => exact absurd hd hs
  | awaitEndS => simp [decodeByte, scanByte, hd, scanAwaitEndS, he hd]
  | idle | flagSeen | addressSeen | controlSeen =>
    simp only [decodeByte, scanByte, hd, scanIdle, scanFlagSeen, scanAddressSeen, scanControlSeen]
    split_ifs <;> rfl

/-- R107 to R110: `FramingError` in a protected region. -/
theorem decodeByte_framingError_iff_inPayload (hs : d.st = .inPayload) :
    (decodeByte maxPayload b d).2 = .framingError ↔
      (d.esc = true ∧ b = flag) ∨
      (d.buf.length = maxPayload + 1 ∧ b ≠ flag ∧ (d.esc = true ∨ b ≠ esc)) ∨
      (d.esc = false ∧ b = flag ∧ d.buf = []) := by
  cases he : d.esc with
  | true =>
    by_cases hf : b = flag
    · subst hf
      simp [decodeByte_escaped_marker hs he]
    · simp [decodeByte_escaped hs he hf, accumulate_framingError_iff, hf]
  | false =>
    by_cases hf : b = flag
    · subst hf
      rw [decodeByte_closeI hs he]
      split <;> simp [*]
    · by_cases hb : b = esc
      · subst hb
        simp [decodeByte_esc hs he]
      · simp [decodeByte_plain hs he hf hb, accumulate_framingError_iff, hf, hb]

/-- R113: `FramingError` arises in exactly three places. -/
theorem decodeByte_framingError_iff :
    (decodeByte maxPayload b d).2 = .framingError ↔
      d.st = .inPayload ∧
        ((d.esc = true ∧ b = flag) ∨
         (d.buf.length = maxPayload + 1 ∧ b ≠ flag ∧ (d.esc = true ∨ b ≠ esc)) ∨
         (d.esc = false ∧ b = flag ∧ d.buf = [])) := by
  by_cases hs : d.st = .inPayload
  · simpa [hs] using decodeByte_framingError_iff_inPayload hs
  · by_cases hb : d.st = .awaitEndS ∧ b = flag
    · obtain ⟨hw, rfl⟩ := hb
      simp [decodeByte_closeS hw, hs]
    · simp [decodeByte_outside hs fun hw hf => hb ⟨hw, hf⟩, hs]

/-- R113: the frame in progress is discarded. -/
theorem decodeByte_st_of_framingError (h : (decodeByte maxPayload b d).2 = .framingError) :
    (decodeByte maxPayload b d).1.st = .idle := by
  obtain ⟨hs, ⟨he, rfl⟩ | ⟨hl, hf, hb⟩ | ⟨he, rfl, hn⟩⟩ := decodeByte_framingError_iff.1 h
  · rw [decodeByte_escaped_marker hs he]
  · cases he : d.esc with
    | true => rw [decodeByte_escaped hs he hf, accumulate_full (d := { d with esc := false }) hl]
    | false => rw [decodeByte_plain hs he hf (hb.resolve_left (by simp [he])), accumulate_full hl]
  · rw [decodeByte_close_empty hs he hn]

end Sys2Proof.Machine
end

section
/-! The step on a byte (42_frame_decoder.md R101): `DecodeByte`, and then `HandleFrame` of the waiting operation. The
bytes of a frame on the line end as that frame's effect (R70, R115 (a)). -/

namespace Sys2Proof

/-- R64: the kinds have different control bytes. -/
theorem ControlField.byte_inj {k k' : ControlField} : k.byte = k'.byte ↔ k = k' := by
  rw [← classify_eq_some_iff, classify_byte, Option.some.injEq]

/-! The control bytes of R64, as `HandleFrame` compares them. -/

section controlBytes

variable {k : ControlField} {n : Bit}

@[simp] theorem byte_eq_set : k.byte = 3#8 ↔ k = .set := ControlField.byte_inj (k' := .set)
@[simp] theorem byte_eq_ua : k.byte = 7#8 ↔ k = .ua := ControlField.byte_inj (k' := .ua)
@[simp] theorem byte_eq_disc : k.byte = 11#8 ↔ k = .disc := ControlField.byte_inj (k' := .disc)
@[simp] theorem byte_eq_ctrlRR : k.byte = ctrlRR n ↔ k = .rr n := ControlField.byte_inj (k' := .rr n)
@[simp] theorem byte_eq_ctrlREJ : k.byte = ctrlREJ n ↔ k = .rej n := ControlField.byte_inj (k' := .rej n)
@[simp] theorem byte_eq_ctrlI : k.byte = ctrlI n ↔ k = .info n := ControlField.byte_inj (k' := .info n)

end controlBytes

end Sys2Proof

namespace Sys2Proof.Machine

variable {s : State} {a b c x : Byte} {p : List Byte} {i : Instr} {rest : List Event}

/-! `HandleFrame` by the kind of the frame (R101). -/

theorem exec_ofFrame_rr (n : Bit) : exec (.ofFrame a p x (.rr n)) s = receiveRr n s := by
  rcases bit_cases n with rfl | rfl <;> rfl

theorem exec_ofFrame_rej (n : Bit) : exec (.ofFrame a p x (.rej n)) s = receiveRej n s := by
  rcases bit_cases n with rfl | rfl <;> rfl

theorem exec_ofFrame_info (n : Bit) : exec (.ofFrame a p x (.info n)) s = receiveInfo n p x s := by
  rcases bit_cases n with rfl | rfl <;> rfl

/-- R138 to R140: the numbers of an Information frame are two, so what is neither damaged nor new is a duplicate. -/
theorem handleFrame_info (he : s.eng = .recvWait) (n : Bit) (valid : Bool) :
    handleFrame a (ControlField.info n).byte p valid s = .next (receiveInfoWaiting n p valid s) := by
  cases valid with
  | false => simp [handleFrame, he, receiveInfoWaiting, rejFrame, isInf_byte, ControlField.isInfo]
  | true =>
    rcases bit_eq_or_eq_not n s.rxSeq with rfl | rfl
    · simp [handleFrame, he, receiveInfoWaiting, acceptInfo, rrFrame]
    · simp [handleFrame, he, receiveInfoWaiting, rrFrame]

/-- R101: the meaning of a frame's instruction is `HandleFrame`, kind by kind. -/
theorem exec_ofFrame (k : ControlField) :
    exec (.ofFrame a p x k) s = handleFrame a k.byte p (xorFold p == x) s := by
  cases k with
  | set | ua | disc =>
    simp only [Instr.ofFrame, exec, execSet, execUa, execDisc]
    cases he : s.eng <;> simp [handleFrame, he, isInf_byte, ControlField.isInfo]
  | rr n =>
    rw [exec_ofFrame_rr]
    cases he : s.eng <;> simp [receiveRr, acknowledged, handleFrame, he, isInf_byte, ControlField.isInfo]
  | rej n =>
    rw [exec_ofFrame_rej]
    cases he : s.eng <;> simp [receiveRej, handleFrame, he, isInf_byte, ControlField.isInfo]
  | info n =>
    rw [exec_ofFrame_info]
    cases he : s.eng with
    | recvWait => rw [handleFrame_info he]; simp [receiveInfo, he]
    | _ => simp [receiveInfo, handleFrame, he]

theorem exec_instrOfFrame (h : instrOfFrame a c p x = some i) : exec i s = handleFrame a c p (xorFold p == x) s := by
  obtain ⟨k, hk, rfl⟩ := Option.map_eq_some_iff.1 h
  rw [classify_some hk, exec_ofFrame]

/-- R71: no wait acts on a control byte that is none of R64. -/
theorem handleFrame_unrecognised (he : s.eng ≠ .idle) (h : instrOfFrame a c p x = none) (valid : Bool) :
    handleFrame a c p valid s = .next s := by
  have hc : classify c = none := Option.map_eq_none_iff.1 h
  have hk (k : ControlField) : c ≠ k.byte := by
    rintro rfl
    simp [classify_byte] at hc
  have hset : c ≠ 3#8 := hk .set
  have hua : c ≠ 7#8 := hk .ua
  have hdisc : c ≠ 11#8 := hk .disc
  have hrr (n : Bit) : c ≠ ctrlRR n := hk (.rr n)
  have hrej (n : Bit) : c ≠ ctrlREJ n := hk (.rej n)
  have hinfo (n : Bit) : c ≠ ctrlI n := hk (.info n)
  have hinf : isInf c = false := by simp [isInf, hc]
  cases hw : s.eng with
  | idle => exact absurd hw he
  | _ => simp [handleFrame, *]

/-! The step on a byte (R101). -/

/-- R76, R109: the symbol that a byte completed is accumulated. -/
theorem exec_symbol (he : s.eng ≠ .idle) (hs : s.dec.st = .inPayload) (hesc : s.dec.esc = false)
    (hi : i = .escFlag ∨ i = .escEsc ∨ ∃ v, i = .literal v ∧ v ≠ flag ∧ v ≠ esc) :
    exec i s = .next { s with dec := (accumulate s.cfg.maxPayload (symbolValue i) s.dec).1 } := by
  rw [accumulate_decoder]
  have h (v : Byte) := symbolsAccumulate s v he hs hesc
  rcases hi with rfl | rfl | ⟨v, rfl, hf, hb⟩
  · exact (h 0).1
  · exact (h 0).2.1
  · exact (h v).2.2 hf hb

theorem accumulate_not_frame {maxPayload : Nat} {v : Byte} {d : Decoder} {valid : Bool} :
    (accumulate maxPayload v d).2 ≠ .frame a c p valid := by
  unfold accumulate
  split <;> nofun

/-- R100, R101: what the step does with the result of `DecodeByte`. -/
theorem rxStep_decodes (he : s.eng ≠ .idle) :
    (∀ a c p valid, (decodeByte s.cfg.maxPayload b s.dec).2 = .frame a c p valid →
      rxStep b s = handleFrame a c p valid { s with dec := (decodeByte s.cfg.maxPayload b s.dec).1 }) ∧
    ((∀ a c p valid, (decodeByte s.cfg.maxPayload b s.dec).2 ≠ .frame a c p valid) →
      rxStep b s = .next { s with dec := (decodeByte s.cfg.maxPayload b s.dec).1 }) := by
  cases hb : scanByte b s.dec with
  | needMore d | framingError d => simp [rxStep, decodeByte, hb]
  | symbol i d =>
    obtain ⟨-, hst, hesc, -, hi⟩ := scanByte_symbol hb
    have hx := exec_symbol (s := { s with dec := d }) he hst hesc hi
    simp only [rxStep, decodeByte, hb]
    exact ⟨fun _ _ _ _ h => absurd h accumulate_not_frame, fun _ => hx⟩
  | frame a c p x d =>
    simp only [rxStep, decodeByte, hb]
    refine ⟨?_, fun h => absurd rfl (h _ _ _ _)⟩
    rintro _ _ _ _ ⟨⟩
    cases hi : instrOfFrame a c p x with
    | some i => exact exec_instrOfFrame hi
    | none => exact (handleFrame_unrecognised (s := { s with dec := d }) he hi _).symm

/-- R101: a byte that completes no frame changes nothing but the decoder. -/
theorem step_no_frame (hp : s.pending = .rxByte b :: rest) (he : s.eng ≠ .idle)
    (h : ∀ a c p valid, (decodeByte s.cfg.maxPayload b s.dec).2 ≠ .frame a c p valid) :
    step s = .next { s with pending := rest, dec := (decodeByte s.cfg.maxPayload b s.dec).1 } := by
  rw [step_head hp ((enabled_rxByte _ b).2 he)]
  exact (rxStep_decodes (s := { s with pending := rest }) he).2 h

/-- R101: a byte that completes a frame hands it to the waiting operation. -/
theorem step_handles_frame (hp : s.pending = .rxByte b :: rest) (he : s.eng ≠ .idle) {valid : Bool}
    (h : (decodeByte s.cfg.maxPayload b s.dec).2 = .frame a c p valid) :
    step s =
      handleFrame a c p valid { s with pending := rest, dec := (decodeByte s.cfg.maxPayload b s.dec).1 } := by
  rw [step_head hp ((enabled_rxByte _ b).2 he)]
  exact (rxStep_decodes (s := { s with pending := rest }) he).1 _ _ _ _ h

/-- Settles O15: `NeedMore` and `FramingError` are no frame, and a frame is handed over. -/
theorem rxByteDecodesThenHandles : Obligations.RxByteDecodesThenHandles := by
  intro s b rest hp he d t
  refine ⟨fun h => step_no_frame hp he ?_, fun h => step_no_frame hp he ?_, fun _ _ _ _ => step_handles_frame hp he⟩
  · simp [h]
  · simp [h]

/-- Settles O19: on a `FramingError` there is no frame to hand over. -/
theorem framingErrorsAreLocal : Obligations.FramingErrorsAreLocal := by
  refine ⟨fun maxPayload b d => ⟨decodeByte_framingError_iff, decodeByte_st_of_framingError, fun h => ?_⟩,
    fun s b rest hp he h => step_no_frame hp he (by simp [h])⟩
  refine decodeByte_outside (fun hs => ?_) fun hs => ?_
  · simp [hs] at h
  · simpa [hs, flag_eq] using h

/-! The bytes of a frame on the line (R70, R115 (a)). -/

theorem runSteps_one (s : State) : runSteps 1 s = step s := by
  unfold runSteps
  split <;> simp [runSteps, *]

/-- R100, R101: bytes that complete nothing are taken one by one and change the decoder alone. -/
theorem runSteps_consumes {bytes : List Byte} {d d' : Decoder} (he : s.eng ≠ .idle)
    (h : Consumes s.cfg.maxPayload bytes d d') (n : Nat) :
    runSteps (bytes.length + n) (s.fed d (bytes.map Event.rxByte ++ rest)) = runSteps n (s.fed d' rest) := by
  induction bytes generalizing d with
  | nil => rw [← h.1]; simp
  | cons b bytes ih =>
    obtain ⟨hf, hr⟩ := h
    obtain ⟨hb, hbs⟩ := List.cons.inj hr
    have hstep : step (s.fed d (.rxByte b :: (bytes.map Event.rxByte ++ rest))) =
        .next (s.fed (decodeByte s.cfg.maxPayload b d).1 (bytes.map Event.rxByte ++ rest)) :=
      step_no_frame (s := s.fed d _) rfl he (by simp [State.fed, hb])
    rw [List.length_cons, Nat.add_right_comm, runSteps, List.map_cons, List.cons_append, hstep]
    exact ih ⟨hf, hbs⟩

/-- R115 (a): the results up to a completed frame, read backwards. -/
theorem Consumes.of_frame_results {maxPayload : Nat} {bytes : List Byte} {d : Decoder} {valid : Bool}
    (h : feedResults maxPayload bytes d =
      List.replicate (bytes.length - 1) .needMore ++ [.frame a c p valid]) :
    ∃ init b, bytes = init ++ [b] ∧ Consumes maxPayload init d (feed maxPayload init d) ∧
      (decodeByte maxPayload b (feed maxPayload init d)).2 = .frame a c p valid := by
  rcases List.eq_nil_or_concat bytes with rfl | ⟨init, b, rfl⟩
  · simp at h
  · rw [List.concat_eq_append] at h ⊢
    rw [feedResults_append] at h
    obtain ⟨hinit, hlast⟩ := List.append_inj' h rfl
    refine ⟨init, b, rfl, ⟨rfl, by simpa using hinit⟩, ?_⟩
    simpa using hlast

/-- R101, R115 (a): bytes that the decoder takes for one frame run as `HandleFrame` of that frame. -/
theorem runSteps_frame {bytes : List Byte} {d : Decoder} {valid : Bool} (he : s.eng ≠ .idle)
    (h : feedResults s.cfg.maxPayload bytes d =
      List.replicate (bytes.length - 1) .needMore ++ [.frame a c p valid]) :
    runSteps bytes.length (s.fed d (bytes.map Event.rxByte ++ rest)) =
      handleFrame a c p valid (s.fed (feed s.cfg.maxPayload bytes d) rest) := by
  obtain ⟨init, b, rfl, hinit, hlast⟩ := Consumes.of_frame_results h
  rw [List.length_append, List.map_append, List.append_assoc, runSteps_consumes he hinit, feed_append]
  exact (runSteps_one _).trans (step_handles_frame (s := s.fed _ _) rfl he hlast)

/-- Settles O48: the decoder takes the bytes for the frame (O16), and handling the frame is its meaning. -/
theorem frameOnTheLineRunsTheFrame : Obligations.FrameOnTheLineRunsTheFrame := by
  intro s i bytes rest hw henc he hd hp
  obtain ⟨a, c, p, x, hi, -, hres, hidle⟩ := frameBytesGiveTheFrame _ i bytes s.dec hw henc hd
  refine ⟨feed s.cfg.maxPayload bytes s.dec, hidle, ?_⟩
  have hrun := runSteps_frame (rest := rest) he hres
  rw [← exec_instrOfFrame hi, State.fed, ← hp] at hrun
  exact hrun

end Sys2Proof.Machine
end

section
/-! The host operations OPEN and CLOSE and the frames SET, UA and DISC, as whole next states (43_connection.md R117 to
R128, 44_arq.md R141). -/

namespace Sys2Proof.Machine

variable {s : State}

/-! OPEN (R117, R118). -/

/-- R117: outside `Closed` an `OPEN` that fits is answered and has no effect. -/
theorem execOpenOp_inSession {role : Role} {n k : Nat} (hk : 1 ≤ k) (hw : budgetFits s.cfg n k = true)
    (he : s.eng = .idle) (hp : s.phase ≠ .closed) : execOpenOp role n k s = .next (respond .invalidState s) := by
  unfold execOpenOp
  rw [if_neg (by omega), if_neg (by simp [hw]), if_neg (by simp [he]), if_pos hp]

/-- R118: the Initiator's `OPEN` under a budget. -/
theorem startOpenI_sends (h : s.attempts < s.maxAttempts) :
    startOpenI s = .next (transmit { s with hold := encodeS 0x03 0x03, eng := .openIWaitUa }) :=
  tryTransmit_under h

/-- R118, R147: the Initiator's `OPEN` without a budget. -/
theorem startOpenI_fails (h : s.maxAttempts ≤ s.attempts) :
    startOpenI s =
      .next (complete .connectionFailed
        { s with hold := encodeS 0x03 0x03, eng := .openIWaitUa, phase := .closed }) :=
  tryTransmit_spent h

/-- Settles O22: U9 and U14 refuse; in `Closed` the role and the budget decide how the session starts. -/
theorem openStartsASession : Obligations.OpenStartsASession := by
  intro s n t role he ht opened
  refine ⟨execOpenOp_refused_iff.2 (.inl ⟨rfl, rfl⟩),
    fun hwide => execOpenOp_refused_iff.2 (.inr (.inl ⟨rfl, ht, hwide⟩)), fun hn hk => ?_⟩
  have hw : budgetFits s.cfg n t = true := (budgetFits_iff _ _ _).2 ⟨hn, hk⟩
  refine ⟨execOpenOp_inSession ht hw he, ?_, ?_, ?_⟩
  · rintro hp rfl
    exact execOpenOp_accepted (role := .responder) ht hw he hp
  · rintro hp rfl hb
    exact (execOpenOp_accepted (role := .initiator) ht hw he hp).trans (startOpenI_sends (s := openSession ..) hb)
  · rintro hp rfl rfl
    exact (execOpenOp_accepted (role := .initiator) ht hw he hp).trans (startOpenI_fails (s := openSession ..) le_rfl)

/-! CLOSE (R122, R123, R128). -/

/-- R123: the Initiator's `CLOSE` under a budget. -/
theorem startClose_sends (hr : s.role = .initiator) (hm : 1 ≤ s.maxAttempts) :
    startClose s =
      .next (transmit
        { s with phase := .closing, hold := encodeS 0x03 0x0B, attempts := 0, eng := .closeIWaitDisc }) :=
  (startClose_initiator hr).trans (tryTransmit_under hm)

/-- R123, R147: the Initiator's `CLOSE` without a budget. -/
theorem startClose_fails (hr : s.role = .initiator) (hm : s.maxAttempts = 0) :
    startClose s =
      .next (complete .closeFailed
        { s with phase := .closed, hold := encodeS 0x03 0x0B, attempts := 0, eng := .closeIWaitDisc }) :=
  (startClose_initiator hr).trans (tryTransmit_spent hm.le)

/-- R122: in an open session with nothing outstanding. -/
theorem execClose_of_idle (he : s.eng = .idle) (hp : s.phase = .opened) : execClose s = startClose s := by
  unfold execClose
  rw [if_pos he, if_neg (by simp [hp])]

/-- R128: the result of the aborted operation, and then the close. -/
theorem execClose_aborts (he : s.eng = .sendWaitAck ∨ s.eng = .recvWait) :
    execClose s = startClose (respond .aborted (disarm s)) := by
  rcases he with he | he <;> simp [execClose, he, Eng.abortable]

/-- Settles O23: outside `Open` the command is answered; in `Open` the close starts by role and budget. -/
theorem closeFromIdle : Obligations.CloseFromIdle := by
  intro s he
  refine ⟨fun hp => ?_, fun hp hr => ?_, fun hp hr hm => ?_, fun hp hr hm => ?_⟩
  · exact (if_pos he).trans (if_pos hp)
  · exact (execClose_of_idle he hp).trans (startClose_responder hr)
  · exact (execClose_of_idle he hp).trans (startClose_sends hr hm)
  · exact (execClose_of_idle he hp).trans (startClose_fails hr hm)

/-- Settles O24: after `Aborted` the close starts as from `Idle`. -/
theorem closeAbortsTheOperation : Obligations.CloseAbortsTheOperation := by
  refine fun s => ⟨fun he => ⟨fun hr => ?_, fun hr hm => ?_, fun hr hm => ?_⟩, fun hi hs hw => ?_⟩
  · exact (execClose_aborts he).trans (startClose_responder hr)
  · rw [List.append_cons]
    exact (execClose_aborts he).trans (startClose_sends hr hm)
  · rw [List.append_cons]
    exact (execClose_aborts he).trans (startClose_fails hr hm)
  · exact execClose_refused_iff.2 ⟨rfl, hi, hs, hw⟩

/-! SET, UA and DISC (R93 to R95). -/

/-- Settles O27: R121, UA before the result. -/
theorem setOpensTheResponder : Obligations.SetOpensTheResponder := by
  intro s a he
  rw [List.append_cons]
  simp only [exec, execSet, he]
  rfl

/-- Settles O28: R119 and R127. -/
theorem uaCompletesOpenAndClose : Obligations.UaCompletesOpenAndClose := by
  refine fun s a => ⟨fun he => ?_, fun he => ?_⟩
  · simp only [exec, execUa, he]
    rfl
  · simp only [exec, execUa, he]
    rfl

/-- Settles O29: R141, R124 and R126. -/
theorem discEndsReceiveAndCloses : Obligations.DiscEndsReceiveAndCloses := by
  refine fun s a => ⟨fun he => ?_, fun he => ?_, fun he => ?_⟩
  · simp only [exec, execDisc, he]
    rfl
  · rw [List.append_cons]
    simp only [exec, execDisc, he]
    rfl
  · simp only [exec, execDisc, he]
    rfl

end Sys2Proof.Machine
end

section
/-! What every step keeps of a connection: the phase moves along its edges (R116), and no acknowledgment is sent outside
`Recv_Wait` (R129). Both are read off the cases of `Effect`. -/

namespace Sys2Proof

/-- R96, R97: the kinds by which a receiver acknowledges. -/
def ControlField.isAck : ControlField → Bool
  | .rr _ | .rej _ => true
  | .set | .ua | .disc | .info _ => false

end Sys2Proof

namespace Sys2Proof.Machine

variable {s t : State} {o : Option Instr}

/-! The phase (R14, R116). -/

/-- R6, R101: `handle_effect` for the events other than `Reset`: an instruction or a tick, and no other change. -/
theorem handle_effect_of_ne_reset {e : Event} (he : e ≠ .reset) (h : handle e s = .next t) :
    ∃ o d, Effect o { s with dec := d } t := by
  cases e with
  | reset => exact absurd rfl he
  | cmd m =>
    obtain ⟨i, -, hx⟩ := cmdStep_next h
    exact ⟨some i, s.dec, exec_effect hx⟩
  | rxByte b =>
    rcases rxStep_next h with ⟨d, -, rfl⟩ | ⟨i, d, -, hx⟩ | ⟨-, -, -, -, d, -, ⟨i, -, hx⟩ | ⟨-, rfl⟩⟩
    · exact ⟨none, d, .unchanged⟩
    · exact ⟨some i, d, exec_effect hx⟩
    · exact ⟨some i, d, exec_effect hx⟩
    · exact ⟨none, d, .unchanged⟩
  | tick => exact ⟨none, s.dec, tickStep_effect h⟩

/-- R6, R7: a step that takes no `Reset` has an effect in its own state but for the decoder and what is presented. -/
theorem step_effect_of_no_reset (h : step s = .next t)
    (hr : ∀ rest, takeEvent s.eng false s.pending ≠ some (.reset, rest)) : ∃ o d rest, Effect o (s.fed d rest) t := by
  obtain rfl | ⟨e, rest, htake, -, hh⟩ := step_next h
  · exact ⟨none, t.dec, t.pending, .unchanged⟩
  · have he : e ≠ .reset := by
      rintro rfl
      exact hr rest htake
    obtain ⟨o, d, hx⟩ := handle_effect_of_ne_reset he hh
    exact ⟨o, d, rest, hx⟩

/-- R14: the opening waits occur in `Establishing`. -/
theorem ControlLegal.phase_establishing (h : ControlLegal s) (he : s.eng = .openIWaitUa ∨ s.eng = .openRWaitSet) :
    s.phase = .establishing := by
  obtain ⟨hl, -⟩ := h
  cases hp : s.phase <;> rcases he with he | he <;> simp_all [legalPair]

/-- R14: the closing waits that a frame or the budget ends occur in `Closing`. -/
theorem ControlLegal.phase_closing (h : ControlLegal s) (he : s.eng = .closeIWaitDisc ∨ s.eng = .closeRWaitUa) :
    s.phase = .closing := by
  obtain ⟨hl, -⟩ := h
  cases hp : s.phase <;> rcases he with he | he <;> simp_all [legalPair]

/-- R116: the edges of the phase. -/
inductive PhaseEdge : Phase → Phase → Prop
  | opening : PhaseEdge .closed .establishing
  | opened : PhaseEdge .establishing .opened
  | openFailed : PhaseEdge .establishing .closed
  | closing : PhaseEdge .opened .closing
  | closed : PhaseEdge .closing .closed

theorem PhaseEdge.mem {p q : Phase} (h : PhaseEdge p q) :
    (p, q) ∈
      [(Phase.closed, Phase.establishing), (.establishing, .opened), (.establishing, .closed), (.opened, .closing),
       (.closing, .closed)] := by
  cases h <;> decide

/-- R116, R147: an effect keeps the phase, or takes an edge, or is a close that fails at once for want of a budget. -/
theorem Effect.phase_cases (h : Effect o s t) (hc : ControlLegal s) :
    t.phase = s.phase ∨ PhaseEdge s.phase t.phase ∨
      (s.phase = .opened ∧ t.phase = .closed ∧ s.role = .initiator ∧ s.maxAttempts = 0) := by
  cases h with
  | openSends _ _ hp | openWaits _ _ hp => exact .inr (.inl (hp ▸ .opening))
  | openFails _ _ hp => exact .inl hp.symm
  | setAnswered he => exact .inr (.inl (hc.phase_establishing (.inr he) ▸ .opened))
  | uaOpens he => exact .inr (.inl (hc.phase_establishing (.inl he) ▸ .opened))
  | tickFailsOpen _ _ _ he => exact .inr (.inl (hc.phase_establishing (.inl he) ▸ .openFailed))
  | uaCloses he => exact .inr (.inl (hc.phase_closing (.inr he) ▸ .closed))
  | discCloses he | tickFailsClose _ _ _ he => exact .inr (.inl (hc.phase_closing (.inl he) ▸ .closed))
  | closeWaits _ hp | closeSends _ hp => exact .inr (.inl (hp ▸ .closing))
  | abortWaits he | abortSends he => exact .inr (.inl (hc.phase_opened he ▸ .closing))
  | closeFails _ hp hr hm => exact .inr (.inr ⟨hp, rfl, hr, hm⟩)
  | abortFails he hr hm => exact .inr (.inr ⟨hc.phase_opened he, rfl, hr, hm⟩)
  | _ => exact .inl rfl

/-- Settles O42: a legal pair fixes the phase of each wait, and with it the edge of each effect. -/
theorem phaseEdges : Obligations.PhaseEdges := by
  intro s t hc h hr
  obtain ⟨o, d, rest, hx⟩ := step_effect_of_no_reset h hr
  exact (hx.phase_cases (s := s.fed d rest) hc).imp_right (Or.imp_left PhaseEdge.mem)

/-! The frames sent outside `Recv_Wait` (R129). -/

/-- R61: the kind of a frame is read from its third byte. -/
def HasKind (f : List Byte) (k : ControlField) : Prop := f[2]? = some k.byte

theorem hasKind_encodeS (a : Byte) (k : ControlField) : HasKind (encodeS a k.byte) k := rfl

theorem hasKind_encodeI (a : Byte) (p : List Byte) (k : ControlField) : HasKind (encodeI a k.byte p) k := rfl

theorem HasKind.unique {f : List Byte} {k k' : ControlField} (h : HasKind f k) (h' : HasKind f k') : k = k' :=
  ControlField.byte_inj.1 (Option.some.inj (h.symm.trans h'))

/-- R118, R123, R130: the frame held for retransmission is SET, DISC or an Information frame. -/
theorem EngineInv.held_not_ack (h : EngineInv s) (ha : s.timerArmed = true) :
    ∃ k, HasKind s.hold k ∧ k.isAck = false := by
  have hh := h.hold
  have ht : s.eng.timed = true := h.control.2 ▸ ha
  unfold HoldLegal at hh
  rcases (Eng.timed_iff _).1 ht with he | he | he <;> simp only [he] at hh
  · exact ⟨.set, hh ▸ hasKind_encodeS _ .set, rfl⟩
  · obtain ⟨p, -, hp⟩ := hh
    exact ⟨.info s.txSeq, hp ▸ hasKind_encodeI _ p (.info s.txSeq), rfl⟩
  · exact ⟨.disc, hh ▸ hasKind_encodeS _ .disc, rfl⟩

/-- R146, R119 to R127: outside `Recv_Wait` an effect sends the held frame under an armed timer, or UA, or DISC. -/
theorem Effect.tx_cases (h : Effect o s t) (hw : s.eng ≠ .recvWait) {f : List Byte} (hf : .tx f ∈ newOutputs s t) :
    (f = t.hold ∧ t.timerArmed = true) ∨ HasKind f .ua ∨ HasKind f .disc := by
  cases h with
  | openSends | rejResends | sendSends | closeSends | abortSends | tickResends =>
    exact .inl ⟨by simpa [newOutputs] using hf, rfl⟩
  | setAnswered | discCloses =>
    obtain rfl : f = encodeS _ 0x07 := by simpa [newOutputs] using hf
    exact .inr (.inl rfl)
  | discAnswered =>
    obtain rfl : f = encodeS _ 0x0B := by simpa [newOutputs] using hf
    exact .inr (.inr rfl)
  | infoRejected he | infoDuplicate he | infoAccepted he => exact absurd he hw
  | _ => simp [newOutputs] at hf

/-- R129: outside `Recv_Wait` no frame of an acknowledging kind is sent. -/
theorem step_tx_not_ack (hs : EngineInv s) (h : step s = .next t) (hw : s.eng ≠ .recvWait) {f : List Byte}
    (hf : .tx f ∈ newOutputs s t) : ∃ k, HasKind f k ∧ k.isAck = false := by
  obtain ⟨rest, rfl⟩ | ⟨o, d, rest, hx⟩ := step_effect h
  · simp [newOutputs] at hf
  · obtain ⟨rfl, ha⟩ | hk | hk := hx.tx_cases (s := s.fed d rest) hw hf
    · exact (everyStepKeepsTheInvariant s t hs h).held_not_ack ha
    · exact ⟨.ua, hk, rfl⟩
    · exact ⟨.disc, hk, rfl⟩

/-- Settles O34: RR and REJ are of an acknowledging kind. -/
theorem noAcknowledgmentOutsideReceive : Obligations.NoAcknowledgmentOutsideReceive := by
  intro s t hs h hw a n
  have not_sent (k : ControlField) (hk : k.isAck = true) : .tx (encodeS a k.byte) ∉ newOutputs s t := fun hf => by
    obtain ⟨k', hk', hn⟩ := step_tx_not_ack hs h hw hf
    rw [hk'.unique (hasKind_encodeS a k), hk] at hn
    cases hn
  exact ⟨not_sent (.rr n) rfl, not_sent (.rej n) rfl⟩

end Sys2Proof.Machine
end

section
/-! The open and the close handshake between two stations over a line that loses nothing (43_connection.md R117 to R127):
each command and each frame delivered has the whole next state stated above. -/

namespace Sys2Proof.Machine

variable {s : State}

/-- R70, R115: a frame delivered whole to a waiting engine with nothing else on its line runs as that frame. -/
theorem runSteps_deliver {i : Instr} {bytes : List Byte} (he : s.eng ≠ .idle)
    (hd : s.dec.st = .idle ∨ s.dec.st = .flagSeen) (hp : s.pending = []) (hw : i.wf s.cfg.maxPayload = true)
    (henc : encode i = .frame bytes) :
    ∃ d : Decoder, d.st = .idle ∧ runSteps bytes.length (s.deliver bytes) = exec i (s.fed d []) :=
  frameOnTheLineRunsTheFrame (s.deliver bytes) i bytes [] hw henc he hd (by simp [State.deliver, hp])

/-- Settles O59: the Responder waits, the Initiator sends SET, the Responder answers UA. -/
theorem openHandshakeOpensBothStations : Obligations.OpenHandshakeOpensBothStations := by
  intro A B n t m u hAp hAe hA hBp hBe hB hn ht hu hnw htw hmw huw
  obtain ⟨-, -, hopenB⟩ := openStartsASession B m u .responder hBe hu
  obtain ⟨-, hwaits, -⟩ := hopenB hmw huw
  obtain ⟨-, -, hopenA⟩ := openStartsASession A n t .initiator hAe ht
  obtain ⟨-, -, hsends, -⟩ := hopenA hnw htw
  obtain ⟨d, -, hset⟩ := runSteps_deliver (i := .set 0x03)
    (s := { openSession .responder m u B with eng := .openRWaitSet }) nofun (.inl rfl) hB rfl rfl
  obtain ⟨e, -, hua⟩ := runSteps_deliver (i := .ua 0x03)
    (s := transmit { openSession .initiator n t A with hold := encodeS 0x03 0x03, eng := .openIWaitUa })
    nofun (.inl rfl) hA rfl rfl
  rw [setOpensTheResponder _ _ rfl] at hset
  rw [(uaCompletesOpenAndClose _ _).1 rfl] at hua
  exact ⟨_, _, _, _, hwaits hBp rfl, by simp [newOutputs], hsends hAp rfl hn, by simp [newOutputs],
    hset, by simp [newOutputs, State.fed], hua, by simp [newOutputs, State.fed], rfl, rfl, rfl, rfl, rfl, rfl⟩

/-- Settles O60: the Responder waits, the Initiator sends DISC, each station answers the other's. -/
theorem closeHandshakeClosesBothStations : Obligations.CloseHandshakeClosesBothStations := by
  intro A B hAp hAe hAr hA hAm hBp hBe hBr hB hAd hBd
  obtain ⟨-, hwaits, -⟩ := closeFromIdle B hBe
  obtain ⟨-, -, hsends, -⟩ := closeFromIdle A hAe
  obtain ⟨d, hd, hdiscB⟩ := runSteps_deliver (i := .disc 0x03)
    (s := { B with phase := .closing, eng := .closeRWaitDisc }) nofun hBd hB rfl rfl
  obtain ⟨e, -, hdiscA⟩ := runSteps_deliver (i := .disc 0x01)
    (s := transmit { A with phase := .closing, eng := .closeIWaitDisc, hold := encodeS 0x03 0x0B, attempts := 0 })
    nofun hAd hA rfl rfl
  obtain ⟨f, -, hua⟩ := runSteps_deliver (i := .ua 0x01)
    (s := { emitTx (encodeS 0x01 0x0B) (B.fed d []) with phase := .closing, eng := .closeRWaitUa })
    nofun (.inl hd) rfl rfl rfl
  rw [(discEndsReceiveAndCloses _ _).2.2 rfl] at hdiscB
  rw [(discEndsReceiveAndCloses _ _).2.1 rfl] at hdiscA
  rw [(uaCompletesOpenAndClose _ _).2 rfl] at hua
  exact ⟨_, _, _, _, _, hwaits hBp hBr, by simp [newOutputs], hsends hAp hAr hAm, by simp [newOutputs],
    hdiscB, by simp [newOutputs, State.fed], hdiscA, by simp [newOutputs, State.fed],
    hua, by simp [newOutputs, State.fed], rfl, rfl, rfl, rfl⟩

end Sys2Proof.Machine
end

section
/-! The host operations SEND and RECEIVE and the frames RR, REJ and I, as whole next states (44_arq.md R130 to R142),
and a payload on its way between two stations over a line that loses nothing (R139, R144). -/

namespace Sys2Proof

/-- R62: the address of a frame that is sent is one that the decoder accepts. -/
@[simp] theorem isAddress_addrOf (role : Role) (k : ControlField) : isAddress (addrOf role k) = true := by
  unfold addrOf
  split <;> rfl

/-- R92: a frame whose checksum is right is encoded by its kind; a supervisory frame has no payload. -/
theorem encode_ofFrame (k : ControlField) (a : Byte) (p : List Byte) :
    encode (.ofFrame a p (xorFold p) k) = .frame (encodeField k a p) := by
  cases k with
  | set | ua | disc => rfl
  | rr n | rej n | info n => rcases bit_cases n with rfl | rfl <;> rfl

end Sys2Proof

namespace Sys2Proof.Machine

variable {s : State} {n : Bit} {p : List Byte} {x : Byte}

/-! SEND (R130 to R133, R136). -/

/-- R130: what an accepted `SEND` writes before it transmits. -/
def holdInfo (p : List Byte) (s : State) : State :=
  { s with
    hold := encodeI (addrOf s.role (.info s.txSeq)) (ctrlI s.txSeq) p
    attempts := 0
    eng := .sendWaitAck }

theorem execSend_notOpen (he : s.eng = .idle) (hp : s.phase ≠ .opened) :
    execSend p s = .next (respond .invalidState s) := by
  unfold execSend
  rw [if_neg (by simp [he]), if_pos hp]

theorem execSend_tooLarge (he : s.eng = .idle) (hp : s.phase = .opened) (hl : s.cfg.maxPayload < p.length) :
    execSend p s = .next (respond .payloadTooLarge s) := by
  unfold execSend
  rw [if_neg (by simp [he]), if_neg (by simp [hp]), if_pos hl]

/-- R130: a `SEND` that is accepted transmits under the budget. -/
theorem execSend_accepted (he : s.eng = .idle) (hp : s.phase = .opened) (hl : p.length ≤ s.cfg.maxPayload) :
    execSend p s = tryTransmit (holdInfo p s) := by
  unfold execSend
  rw [if_neg (by simp [he]), if_neg (by simp [hp]), if_neg (by omega)]
  rfl

/-- R147: in `Send_WaitAck` the spent budget ends the `SEND`. -/
theorem tryTransmit_sendFails (he : s.eng = .sendWaitAck) (hb : s.maxAttempts ≤ s.attempts) :
    tryTransmit s = .next (complete .transmitFailed s) := by
  rw [tryTransmit_spent hb, fail, he]

/-- Settles O25: an accepted `SEND` goes by the budget. -/
theorem sendTransmitsTheFrame : Obligations.SendTransmitsTheFrame := by
  intro s p he frame
  refine ⟨execSend_notOpen he, execSend_tooLarge he, fun hp hl hm => ?_, fun hp hl hm => ?_⟩
  · exact (execSend_accepted he hp hl).trans (tryTransmit_under hm)
  · rw [he]
    exact (execSend_accepted he hp hl).trans (tryTransmit_sendFails rfl hm.le)

/-- R132: the RR that names the number after the one in flight. -/
theorem receiveRr_matching (he : s.eng = .sendWaitAck) : receiveRr (~~~s.txSeq) s = .next (acknowledged s) := by
  simp [receiveRr, he]

/-- R129, R134, R142: an RR that is stale, or that no `SEND` waits for. -/
theorem receiveRr_ignored (he : s.eng ≠ .idle) (h : s.eng = .sendWaitAck → n = s.txSeq) :
    receiveRr n s = .next s := by
  cases hw : s.eng with
  | idle => exact absurd hw he
  | sendWaitAck => simp [receiveRr, hw, h hw]
  | _ => simp [receiveRr, hw]

/-- R133: the REJ that names the number in flight retransmits, the timer stopped. -/
theorem receiveRej_matching (he : s.eng = .sendWaitAck) : receiveRej s.txSeq s = tryTransmit (disarm s) := by
  simp [receiveRej, he]

/-- R129, R134, R142: a REJ that is stale, or that no `SEND` waits for. -/
theorem receiveRej_ignored (he : s.eng ≠ .idle) (h : s.eng = .sendWaitAck → n = ~~~s.txSeq) :
    receiveRej n s = .next s := by
  cases hw : s.eng with
  | idle => exact absurd hw he
  | sendWaitAck => simp [receiveRej, hw, h hw]
  | _ => simp [receiveRej, hw]

/-- Settles O30: the number after 0 is 1, and the number after 1 is 0. -/
theorem rrAcknowledgesTheFrame : Obligations.RrAcknowledgesTheFrame := by
  refine fun s a he => ⟨fun h => ?_, fun h => ?_⟩
  all_goals
    have hr := receiveRr_matching he
    rw [acknowledged, h] at hr
    exact hr

/-- Settles O31: the retransmission goes by the budget. -/
theorem rejRetransmits : Obligations.RejRetransmits := by
  intro s a i he hi
  have hx : exec i s = tryTransmit (disarm s) := by
    rw [← receiveRej_matching he]
    rcases hi with ⟨h, rfl⟩ | ⟨h, rfl⟩ <;> rw [h] <;> rfl
  exact ⟨fun hb => hx.trans (tryTransmit_under hb), fun hb => hx.trans (tryTransmit_sendFails he hb)⟩

/-! RECEIVE (R137 to R142). -/

theorem execReceive_waits (he : s.eng = .idle) (hp : s.phase = .opened) :
    execReceive s = .next { s with eng := .recvWait } := by
  simp [execReceive, he, hp]

/-- Settles O26: the command is accepted in `Open`. -/
theorem receiveWaits : Obligations.ReceiveWaits := by
  refine fun s he => ⟨fun hp => ?_, execReceive_waits he⟩
  exact (if_neg (by simp [he])).trans (if_pos hp)

/-- R138: the frame that is expected. -/
theorem receiveInfo_new (he : s.eng = .recvWait) : receiveInfo s.rxSeq p (xorFold p) s = .next (acceptInfo p s) := by
  simp [receiveInfo, he, receiveInfoWaiting]

/-- R139: the frame that was taken before. -/
theorem receiveInfo_duplicate (he : s.eng = .recvWait) :
    receiveInfo (~~~s.rxSeq) p (xorFold p) s = .next (emitTx (rrFrame s) s) := by
  simp [receiveInfo, he, receiveInfoWaiting]

/-- R140: a damaged frame, whichever its number. -/
theorem receiveInfo_damaged (he : s.eng = .recvWait) (hx : x ≠ xorFold p) :
    receiveInfo n p x s = .next (emitTx (rejFrame s) s) := by
  simp [receiveInfo, he, receiveInfoWaiting, hx.symm]

/-- R129, R134: an Information frame that no `RECEIVE` waits for. -/
theorem receiveInfo_ignored (he : s.eng ≠ .idle) (h : s.eng ≠ .recvWait) : receiveInfo n p x s = .next s := by
  cases hw : s.eng with
  | idle => exact absurd hw he
  | recvWait => exact absurd hw h
  | _ => simp [receiveInfo, hw]

/-- Settles O32: the checksum is tested before the number. -/
theorem informationFrameReceived : Obligations.InformationFrameReceived := by
  intro s a x p n i he hi
  have hexec : exec i s = receiveInfo n p x s := by
    rcases hi with ⟨rfl, rfl⟩ | ⟨rfl, rfl⟩ <;> rfl
  rw [hexec]
  refine ⟨?_, ?_, receiveInfo_damaged he⟩
  · rintro rfl rfl
    rw [List.append_cons]
    exact receiveInfo_new he
  · rintro rfl rfl
    exact receiveInfo_duplicate he

/-! The frames that a wait does not act on (R129, R134, R142). -/

/-- Settles O33: the acknowledgments and the Information frames go by their number and the wait, the others by the
wait alone. -/
theorem otherFramesAreIgnored : Obligations.OtherFramesAreIgnored := by
  intro s i hi he h
  cases i with
  | set a | ua a | disc a =>
    simp only [exec, execSet, execUa, execDisc]
    cases hw : s.eng <;> simp_all [actsOn]
  | rr0 a | rr1 a =>
    refine receiveRr_ignored he fun hw => ?_
    rcases bit_cases s.txSeq with ht | ht <;> simp_all [actsOn]
  | rej0 a | rej1 a =>
    refine receiveRej_ignored he fun hw => ?_
    rcases bit_cases s.txSeq with ht | ht <;> simp_all [actsOn]
  | i0 a p x | i1 a p x => exact receiveInfo_ignored he (by simpa [actsOn] using h)
  | openOp | send | receive | close | escFlag | escEsc | literal => cases hi

/-! A frame on the line, by its kind (R70, R115). -/

/-- R70, R92, R115: a frame of any kind that is delivered whole to a waiting engine runs as that frame. -/
theorem runSteps_deliver_ofFrame {a : Byte} (he : s.eng ≠ .idle) (hd : s.dec.st = .idle ∨ s.dec.st = .flagSeen)
    (hp : s.pending = []) (ha : isAddress a = true) (k : ControlField)
    (hl : k.isInfo = true → p.length ≤ s.cfg.maxPayload) :
    ∃ d : Decoder, d.st = .idle ∧
      runSteps (encodeField k a p).length (s.deliver (encodeField k a p)) =
        exec (.ofFrame a p (xorFold p) k) (s.fed d []) :=
  runSteps_deliver he hd hp ((wf_ofFrame_iff ..).2 ⟨ha, hl⟩) (encode_ofFrame k a p)

/-- R138, R139: an undamaged Information frame on the line of an engine in `Recv_Wait`. -/
theorem runSteps_deliver_info {a : Byte} (he : s.eng ≠ .idle) (hd : s.dec.st = .idle ∨ s.dec.st = .flagSeen)
    (hp : s.pending = []) (ha : isAddress a = true) (hl : p.length ≤ s.cfg.maxPayload) (n : Bit) :
    ∃ d : Decoder, d.st = .idle ∧
      runSteps (encodeI a (ctrlI n) p).length (s.deliver (encodeI a (ctrlI n) p)) =
        receiveInfo n p (xorFold p) (s.fed d []) := by
  obtain ⟨d, hst, hrun⟩ := runSteps_deliver_ofFrame he hd hp ha (.info n) fun _ => hl
  exact ⟨d, hst, hrun.trans (exec_ofFrame_info n)⟩

/-- R132, R134: an RR on the line. -/
theorem runSteps_deliver_rr {a : Byte} (he : s.eng ≠ .idle) (hd : s.dec.st = .idle ∨ s.dec.st = .flagSeen)
    (hp : s.pending = []) (ha : isAddress a = true) (n : Bit) :
    ∃ d : Decoder, d.st = .idle ∧
      runSteps (encodeS a (ctrlRR n)).length (s.deliver (encodeS a (ctrlRR n))) = receiveRr n (s.fed d []) := by
  obtain ⟨d, hst, hrun⟩ := runSteps_deliver_ofFrame (p := []) he hd hp ha (.rr n) nofun
  exact ⟨d, hst, hrun.trans (exec_ofFrame_rr n)⟩

/-! Two stations (R139, R144). -/

theorem newOutputs_emitTx (bytes : List Byte) (s : State) : newOutputs s (emitTx bytes s) = [.tx bytes] :=
  List.drop_left

theorem newOutputs_transmit (s : State) : newOutputs s (transmit s) = [.tx s.hold] := newOutputs_emitTx s.hold s

/-- Settles O57: the frame is new to the receiver, and its RR names the number after the one in flight. -/
theorem payloadCrossesTheLink : Obligations.PayloadCrossesTheLink := by
  intro A B p hAp hAe hA hAm hBe hB hseq hlA hlB hAd hBd
  have hsend : execSend p A = .next (transmit (holdInfo p A)) :=
    (execSend_accepted hAe hAp hlA).trans (tryTransmit_under hAm)
  obtain ⟨d, -, hinfo⟩ := runSteps_deliver_info (by simp [hBe]) hBd hB
    (isAddress_addrOf A.role (.info A.txSeq)) hlB A.txSeq
  have haccept : receiveInfo A.txSeq p (xorFold p) (B.fed d []) = .next (acceptInfo p (B.fed d [])) :=
    hseq ▸ receiveInfo_new (s := B.fed d []) hBe
  obtain ⟨e, -, hrr⟩ := runSteps_deliver_rr (s := transmit (holdInfo p A)) nofun hAd hA
    (isAddress_addrOf B.role (.rr (~~~B.rxSeq))) (~~~B.rxSeq)
  have hack : receiveRr (~~~B.rxSeq) ((transmit (holdInfo p A)).fed e []) =
      .next (acknowledged ((transmit (holdInfo p A)).fed e [])) :=
    hseq ▸ receiveRr_matching (s := (transmit (holdInfo p A)).fed e []) rfl
  exact ⟨_, _, _, _, _, hsend, newOutputs_transmit (holdInfo p A),
    hinfo.trans haccept, newOutputs_acceptInfo p (B.fed d []),
    hrr.trans hack, newOutputs_acknowledged ((transmit (holdInfo p A)).fed e []),
    rfl, congrArg (~~~·) hseq, rfl, rfl, hAp, rfl⟩

/-- R138, R137: the engine after it gave the payload `p`, with the next `RECEIVE` outstanding. -/
def receiveAgain (p : List Byte) (s : State) : State := { acceptInfo p s with eng := .recvWait }

/-- R139, R57: the number just taken is no longer the expected one, and the RR names the expected one as before. -/
theorem receiveInfo_repeated (p : List Byte) (s : State) :
    receiveInfo s.rxSeq p (xorFold p) (receiveAgain p s) =
      .next (emitTx (rrFrame (acceptInfo p s)) (receiveAgain p s)) := by
  have hn : ~~~(receiveAgain p s).rxSeq = s.rxSeq := BitVec.not_not
  have hdup := receiveInfo_duplicate (s := receiveAgain p s) (p := p) rfl
  rw [hn] at hdup
  exact hdup

/-- Settles O58: the first time the number is the expected one, the second time it is not. -/
theorem repeatedFrameIsDeliveredOnce : Obligations.RepeatedFrameIsDeliveredOnce := by
  rintro B p a _ hBp hBe hB hl hBd ha rfl
  obtain ⟨d, hd, hfirst⟩ := runSteps_deliver_info (by simp [hBe]) hBd hB ha hl B.rxSeq
  obtain ⟨e, -, hagain⟩ := runSteps_deliver_info (s := receiveAgain p (B.fed d [])) nofun (.inl hd) rfl ha hl
    B.rxSeq
  have hnew : receiveInfo B.rxSeq p (xorFold p) (B.fed d []) = .next (acceptInfo p (B.fed d [])) :=
    receiveInfo_new (s := B.fed d []) hBe
  exact ⟨_, _, _, _, hfirst.trans hnew, newOutputs_acceptInfo p (B.fed d []), execReceive_waits rfl hBp,
    hagain.trans (receiveInfo_repeated p (B.fed e [])), newOutputs_emitTx _ _, rfl, rfl⟩

end Sys2Proof.Machine
end

section
/-! The retry sequencer in time: what a spent budget does (R147), what a tick does (R148), and the ticks of a frame that
nothing answers (R150). -/

namespace Sys2Proof.Machine

variable {s : State} {rest : List Event}

/-! The spent budget (R147). -/

/-- R147: the result by which the operation of a timed wait gives up. -/
def Eng.failure : Eng → Result
  | .openIWaitUa => .connectionFailed
  | .sendWaitAck => .transmitFailed
  | _ => .closeFailed

/-- R147: the phase in which the operation of a timed wait gives up: a `SEND` leaves the session as it is. -/
def Eng.failurePhase (e : Eng) (p : Phase) : Phase := if e = .sendWaitAck then p else .closed

/-- R147, the three rows at once. -/
theorem tryTransmit_fails {e : Eng} (he : s.eng = e) (ht : e.timed = true) (hb : s.maxAttempts ≤ s.attempts) :
    tryTransmit s = .next (complete e.failure { s with phase := e.failurePhase s.phase }) := by
  rw [tryTransmit_spent hb, fail, he]
  rcases (Eng.timed_iff e).1 ht with rfl | rfl | rfl <;> rfl

/-- Settles O35: a transmission while the budget lasts, and after it the failure of the operation that waits. -/
theorem tryTransmitUnderTheBudget : Obligations.TryTransmitUnderTheBudget :=
  fun _ => ⟨tryTransmit_under, fun hb he => tryTransmit_fails he rfl hb, fun hb he => tryTransmit_fails he rfl hb,
    fun hb he => tryTransmit_fails he rfl hb⟩

/-! The tick (R148). -/

theorem tickStep_off (ha : s.timerArmed = false) : tickStep s = .next s := if_pos ha

theorem tickStep_counts (ha : s.timerArmed = true) (hc : 2 ≤ s.timerCnt) :
    tickStep s = .next { s with timerCnt := s.timerCnt - 1 } := by
  simp [tickStep, ha, hc]

theorem tickStep_expires (ha : s.timerArmed = true) (hc : s.timerCnt < 2) : tickStep s = tryTransmit (disarm s) := by
  simp [tickStep, ha, hc, expire, disarm]

/-- R148: a tick is taken in every state. -/
theorem step_tick (hp : s.pending = .tick :: rest) : step s = tickStep { s with pending := rest } := step_head hp rfl

/-- Settles O36: the three cases of a tick. -/
theorem tickCountsDownThenExpires : Obligations.TickCountsDownThenExpires := by
  intro s rest hp
  have htick := step_tick hp
  exact ⟨fun ha => htick.trans (tickStep_off ha), fun ha hc => htick.trans (tickStep_counts ha hc),
    fun ha hc => htick.trans (tickStep_expires ha hc)⟩

/-! Ticks and deadlines: after `k` ticks `k / T` deadlines of `T` ticks have passed. -/

theorem div_mod_succ_of_lt {k T : Nat} (h : k % T + 1 < T) : (k + 1) / T = k / T ∧ (k + 1) % T = k % T + 1 :=
  (Nat.div_mod_unique (by omega)).2 ⟨by have := Nat.mod_add_div k T; omega, h⟩

theorem div_mod_succ_of_eq {k T : Nat} (h : k % T + 1 = T) : (k + 1) / T = k / T + 1 ∧ (k + 1) % T = 0 :=
  (Nat.div_mod_unique (by omega)).2 ⟨by have := Nat.mod_add_div k T; rw [Nat.mul_add_one]; omega, by omega⟩

/-- The tick number `N * T` ends the `N`-th deadline. -/
theorem div_mod_of_succ_eq_mul {k N T : Nat} (hT : 1 ≤ T) (h : k + 1 = N * T) : k / T + 1 = N ∧ k % T + 1 = T := by
  cases N with
  | zero => omega
  | succ m =>
    rw [Nat.add_one_mul, Nat.mul_comm] at h
    obtain ⟨hdiv, hmod⟩ : k / T = m ∧ k % T = T - 1 := (Nat.div_mod_unique hT).2 ⟨by omega, by omega⟩
    omega

/-! A frame that nothing answers (R150). -/

/-- R150: the state `k` ticks after the first transmission: `k / T` deadlines have expired, each a transmission, and
`k % T` ticks of the running deadline are gone. -/
def State.unanswered (s : State) (k : Nat) (inputs : List Event) : State :=
  { s with
    attempts := s.attempts + k / s.timeout
    timerCnt := s.timeout - k % s.timeout
    out := s.out ++ List.replicate (k / s.timeout) (.tx s.hold)
    pending := inputs }

theorem step_unanswered_tick (k : Nat) : step (s.unanswered k (.tick :: rest)) = tickStep (s.unanswered k rest) :=
  step_tick (s := s.unanswered k _) rfl

/-- R148: a tick inside a deadline. -/
theorem step_unanswered_counts {k : Nat} (ha : s.timerArmed = true) (hk : k % s.timeout + 1 < s.timeout) :
    step (s.unanswered k (.tick :: rest)) = .next (s.unanswered (k + 1) rest) := by
  obtain ⟨hdiv, hmod⟩ := div_mod_succ_of_lt hk
  have hcnt : 2 ≤ s.timeout - k % s.timeout := by omega
  rw [step_unanswered_tick, tickStep_counts (s := s.unanswered k rest) ha hcnt]
  simp [State.unanswered, hdiv, hmod, Nat.sub_sub]

/-- R148: the tick at which a deadline expires. -/
theorem step_unanswered_expires {k : Nat} (ha : s.timerArmed = true) (hk : k % s.timeout + 1 = s.timeout) :
    step (s.unanswered k (.tick :: rest)) = tryTransmit (disarm (s.unanswered k rest)) := by
  have hcnt : s.timeout - k % s.timeout < 2 := by omega
  exact (step_unanswered_tick k).trans (tickStep_expires (s := s.unanswered k rest) ha hcnt)

/-- R146: an expiry under the budget is one more transmission. -/
theorem step_unanswered_transmits {k : Nat} (ha : s.timerArmed = true) (hk : k % s.timeout + 1 = s.timeout)
    (hb : s.attempts + k / s.timeout < s.maxAttempts) :
    step (s.unanswered k (.tick :: rest)) = .next (s.unanswered (k + 1) rest) := by
  obtain ⟨hdiv, hmod⟩ := div_mod_succ_of_eq hk
  rw [step_unanswered_expires ha hk, tryTransmit_under (s := disarm (s.unanswered k rest)) hb]
  simp [State.unanswered, transmit, emitTx, disarm, hdiv, hmod, ha, List.replicate_succ', Nat.add_assoc]

/-- R150: every tick before the last one of the budget. -/
theorem step_unanswered {k : Nat} (ha : s.timerArmed = true) (hone : s.attempts = 1) (hT : 1 ≤ s.timeout)
    (hk : k + 1 < s.maxAttempts * s.timeout) :
    step (s.unanswered k (.tick :: rest)) = .next (s.unanswered (k + 1) rest) := by
  have hlt : k % s.timeout < s.timeout := Nat.mod_lt _ hT
  obtain hin | hend : k % s.timeout + 1 < s.timeout ∨ k % s.timeout + 1 = s.timeout := by omega
  · exact step_unanswered_counts ha hin
  · refine step_unanswered_transmits ha hend ?_
    have hdiv : (k + 1) / s.timeout < s.maxAttempts := (Nat.div_lt_iff_lt_mul hT).2 hk
    rw [(div_mod_succ_of_eq hend).1] at hdiv
    omega

/-- R150: the ticks before the last one of the budget, one after another. -/
theorem runSteps_unanswered (ha : s.timerArmed = true) (hone : s.attempts = 1) (hT : 1 ≤ s.timeout) {j k : Nat}
    (hk : j + k < s.maxAttempts * s.timeout) (n : Nat) :
    runSteps (k + n) (s.unanswered j (List.replicate k .tick ++ rest)) = runSteps n (s.unanswered (j + k) rest) := by
  induction k generalizing j with
  | zero => simp
  | succ k ih =>
    rw [Nat.add_right_comm, runSteps, List.replicate_succ, List.cons_append, step_unanswered ha hone hT (by omega)]
    exact (ih (by omega)).trans (by rw [Nat.add_right_comm, Nat.add_assoc])

theorem tickTimes_eq_unanswered (hcnt : s.timerCnt = s.timeout) (hp : s.pending = []) (k : Nat) :
    s.tickTimes k = s.unanswered 0 (List.replicate k .tick) := by
  simp [State.tickTimes, State.unanswered, hcnt, hp]

/-- R150: of the presented ticks the ones before the last one of the budget are counted. -/
theorem runSteps_tickTimes (ha : s.timerArmed = true) (hone : s.attempts = 1) (hT : 1 ≤ s.timeout)
    (hcnt : s.timerCnt = s.timeout) (hp : s.pending = []) {k : Nat} (hk : k < s.maxAttempts * s.timeout) (n : Nat) :
    runSteps (k + n) (s.tickTimes (k + n)) = runSteps n (s.unanswered k (List.replicate n .tick)) := by
  rw [tickTimes_eq_unanswered hcnt hp, List.replicate_add,
    runSteps_unanswered ha hone hT (by rwa [Nat.zero_add]), Nat.zero_add]

/-- R147, R150: the last tick of the budget. -/
theorem step_unanswered_fails {k : Nat} (ht : s.eng.timed = true) (ha : s.timerArmed = true) (hone : s.attempts = 1)
    (hT : 1 ≤ s.timeout) (hk : k + 1 = s.maxAttempts * s.timeout) :
    step (s.unanswered k (.tick :: rest)) =
      .next (complete s.eng.failure { disarm (s.unanswered k rest) with phase := s.eng.failurePhase s.phase }) := by
  obtain ⟨hdiv, hmod⟩ := div_mod_of_succ_eq_mul hT hk
  have hspent : s.maxAttempts ≤ s.attempts + k / s.timeout := by omega
  exact (step_unanswered_expires ha hmod).trans (tryTransmit_fails (s := disarm (s.unanswered k rest)) rfl ht hspent)

/-- R150: what was emitted when the failure is given. -/
theorem newOutputs_unanswered_fails (k : Nat) (r : Result) (ph : Phase) :
    newOutputs s (complete r { disarm (s.unanswered k rest) with phase := ph }) =
      List.replicate (k / s.timeout) (.tx s.hold) ++ [.rsp r] := by
  simp [newOutputs, State.unanswered]

/-- Settles O37: before tick `N * T` the state is `unanswered`, and that tick fails. -/
theorem unansweredFrameIsSentExactlyNTimes : Obligations.UnansweredFrameIsSentExactlyNTimes := by
  rintro s N T ht ha hone rfl rfl hcnt hN hT hp
  constructor
  · intro k hk
    exact ⟨_, runSteps_tickTimes ha hone hT hcnt hp hk 0, List.drop_left, rfl, rfl, congrArg (· + _) hone⟩
  · obtain ⟨k, hk⟩ : ∃ k, s.maxAttempts * s.timeout = k + 1 := Nat.exists_eq_add_one.2 (Nat.mul_pos hN hT)
    have hrun := runSteps_tickTimes ha hone hT hcnt hp (k := k) (by omega) 1
    have hlast := step_unanswered_fails (rest := []) ht ha hone hT hk.symm
    have hsent : k / s.timeout = s.maxAttempts - 1 := by
      rw [← (div_mod_of_succ_eq_mul hT hk.symm).1, Nat.add_sub_cancel]
    rw [hk, ← hsent]
    exact ⟨_, _, hrun.trans ((runSteps_one _).trans hlast), newOutputs_unanswered_fails k _ _, rfl, rfl, rfl⟩

end Sys2Proof.Machine
end

section
/-! No step is a fault from a state with the invariant (60_exceptions.md R155): no instruction is one in any state, since
each transmission it begins stands in a timed wait, where R147 has a row; a tick transmits only where R14 arms the
timer. -/

namespace Sys2Proof.Machine

section faults

variable {s : State} {r : Fault}

/-- R147: in a timed wait the spent budget has a row. -/
theorem tryTransmit_not_fault (ht : s.eng.timed = true) : tryTransmit s ≠ .fault r := by
  obtain ⟨t, h⟩ := tryTransmit_timed ((Eng.timed_iff _).1 ht)
  simp [h]

theorem execOpenOp_not_fault {role : Role} {n k : Nat} : execOpenOp role n k s ≠ .fault r := by
  unfold execOpenOp
  split_ifs
  · nofun
  · nofun
  · nofun
  · nofun
  · cases role with
    | initiator => exact tryTransmit_not_fault rfl
    | responder => nofun

theorem execSend_not_fault {p : List Byte} : execSend p s ≠ .fault r := by
  unfold execSend
  split_ifs
  · nofun
  · nofun
  · nofun
  · exact tryTransmit_not_fault rfl

theorem execReceive_not_fault : execReceive s ≠ .fault r := by
  unfold execReceive
  split_ifs <;> nofun

theorem startClose_not_fault : startClose s ≠ .fault r := by
  unfold startClose
  split
  · exact tryTransmit_not_fault rfl
  · nofun

theorem execClose_not_fault : execClose s ≠ .fault r := by
  unfold execClose
  split_ifs
  · nofun
  · exact startClose_not_fault
  · exact startClose_not_fault
  · nofun

theorem receiveRr_not_fault {n : Bit} : receiveRr n s ≠ .fault r := by
  unfold receiveRr
  split
  · nofun
  · split <;> nofun
  all_goals nofun

/-- R133: the retransmission that a REJ causes is in `Send_WaitAck`. -/
theorem receiveRej_not_fault {n : Bit} : receiveRej n s ≠ .fault r := by
  unfold receiveRej
  split
  · nofun
  · rename_i he
    split
    · exact tryTransmit_not_fault (s := disarm s) (congrArg Eng.timed he)
    · nofun
  all_goals nofun

theorem receiveInfo_not_fault {n : Bit} {p : List Byte} {x : Byte} : receiveInfo n p x s ≠ .fault r := by
  unfold receiveInfo
  split <;> nofun

theorem takeSymbol_not_fault {bytes : List Byte} : takeSymbol bytes s ≠ .fault r := by
  unfold takeSymbol
  split <;> nofun

/-- R155: no instruction is a fault, in any state. -/
theorem exec_not_fault {i : Instr} : exec i s ≠ .fault r := by
  cases i with
  | set a | ua a | disc a =>
    simp only [exec, execSet, execUa, execDisc]
    split <;> nofun
  | rr0 a | rr1 a => exact receiveRr_not_fault
  | rej0 a | rej1 a => exact receiveRej_not_fault
  | i0 a p x | i1 a p x => exact receiveInfo_not_fault
  | openOp role n k => exact execOpenOp_not_fault
  | send p => exact execSend_not_fault
  | receive => exact execReceive_not_fault
  | close => exact execClose_not_fault
  | escFlag | escEsc | literal v => exact takeSymbol_not_fault

theorem rxStep_not_fault {b : Byte} : rxStep b s ≠ .fault r := by
  unfold rxStep
  split
  · nofun
  · nofun
  · exact exec_not_fault
  · split
    · exact exec_not_fault
    · nofun

theorem cmdStep_not_fault {m : CmdMsg} : cmdStep m s ≠ .fault r := by
  unfold cmdStep
  split
  · exact exec_not_fault
  · nofun

/-- R148: a deadline expires only where the timer is armed, which R14 has in the timed waits. -/
theorem tickStep_not_fault (hc : ControlLegal s) : tickStep s ≠ .fault r := by
  obtain ⟨-, htimer⟩ := hc
  unfold tickStep
  split_ifs with ha
  · nofun
  · nofun
  · exact tryTransmit_not_fault (s := disarm s) (htimer ▸ eq_true_of_ne_false ha)

/-- R155: what R14 says of the waits and the timer is enough for a step to be no fault. -/
theorem step_not_fault (hc : ControlLegal s) : step s ≠ .fault r := by
  unfold step
  split
  · nofun
  · rename_i e rest htake
    cases e with
    | reset => nofun
    | cmd m => exact cmdStep_not_fault
    | rxByte b => exact rxStep_not_fault
    | tick => exact tickStep_not_fault (s := { s with pending := rest }) hc

end faults

/-- Settles O50: the invariant excludes the fault, and a refusal would be of an `OPEN` that is presented. -/
theorem nothingStopsTheEngine : Obligations.NothingStopsTheEngine := by
  intro s hs hopen
  cases hstep : step s with
  | next t => exact ⟨t, rfl⟩
  | fault r => exact absurd hstep (step_not_fault hs.control)
  | refused r =>
    obtain ⟨m, rest, htake, hcode, hwhy⟩ := step_refused hstep
    obtain ⟨-, before, after, hpending, -⟩ := takeEvent_some htake
    obtain ⟨htimeout, hattempts, hticks⟩ := hopen m (by simp [hpending]) hcode
    omega

end Sys2Proof.Machine
end

section
/-! What the host and a clock see of the engine: the status outputs (R160), the result codes (R157), and the inputs of one
cycle (R165). -/

namespace Sys2Proof.Machine

theorem busy_iff (s : State) : busy s = true ↔ s.eng ≠ .idle := bne_iff_ne

/-- Settles O54: `phase` is the code of the phase register. -/
theorem statusOutputs : Obligations.StatusOutputs := fun s =>
  ⟨congrArg Phase.code, congrArg Phase.code, congrArg Phase.code, congrArg Phase.code, busy_iff s⟩

/-- R157: `0xA` to `0xF` are no codes. -/
theorem Result.code_lt (r : Result) : r.code.toNat < 0xA := by
  cases r <;> simp [Result.code]

/-- Settles O55: the codes as the table lists them, and their bound. -/
theorem resultCodes : Obligations.ResultCodes := ⟨fun _ _ => rfl, Result.code_lt⟩

section arbitrate

variable (rx : Option Byte) (tick : Bool) (cmd : Option CmdMsg)

/-- R165: without `Reset` an input is taken when it is present. -/
theorem mem_arbitrate (e : Event) :
    e ∈ arbitrate false rx tick cmd ↔
      (∃ b, rx = some b ∧ e = .rxByte b) ∨ (tick = true ∧ e = .tick) ∨ (∃ m, cmd = some m ∧ e = .cmd m) := by
  cases tick <;> simp [arbitrate, eq_comm (b := e)]

/-- R165: without `Reset` the order is byte, tick, command, each at most once. -/
theorem arbitrate_sublist :
    (arbitrate false rx tick cmd).Sublist ((rx.map Event.rxByte).toList ++ [.tick] ++ (cmd.map Event.cmd).toList) := by
  have htick : (if tick then [Event.tick] else []).Sublist [.tick] := by cases tick <;> simp
  exact (htick.append_left _).append_right _

end arbitrate

/-- Settles O56: `Reset` alone; else membership, the full cycle, and the order. -/
theorem sameCycleOrder : Obligations.SameCycleOrder := fun rx tick cmd =>
  ⟨rfl, mem_arbitrate rx tick cmd, fun _ _ => rfl, arbitrate_sublist rx tick cmd⟩

end Sys2Proof.Machine
end

section
/-! Reset and the state with no session (70_reset_and_hazards.md R175, R176). -/

namespace Sys2Proof.Machine

variable {s : State} {rest : List Event}

/-- R175: `Reset` is taken in every state. -/
theorem step_reset (hp : s.pending = .reset :: rest) : step s = .next (resetStep { s with pending := rest }) :=
  step_head hp rfl

/-- Settles O51: the event leaves the specified registers as the reset state has them. -/
theorem resetEventRestoresTheEngine : Obligations.ResetEventRestoresTheEngine := by
  unfold Obligations.ResetEventRestoresTheEngine
  intro atReset
  have hreset : atReset State.reset := ⟨rfl, rfl, rfl, rfl, rfl, rfl, rfl, rfl, rfl, rfl⟩
  exact ⟨hreset, fun s rest hp => ⟨_, step_reset hp, hreset, rfl, rfl, rfl⟩⟩

/-- R122, R136, R137: outside `Open` the three commands of a session are answered `InvalidState`. -/
theorem exec_sessionCommand_notOpen {i : Instr} (hi : i = .receive ∨ i = .close ∨ ∃ p, i = .send p)
    (he : s.eng = .idle) (hp : s.phase ≠ .opened) : exec i s = .next (respond .invalidState s) := by
  obtain rfl | rfl | ⟨p, rfl⟩ := hi
  · exact (receiveWaits s he).1 hp
  · exact (closeFromIdle s he).1 hp
  · exact execSend_notOpen he hp

/-- R7, R40: in `Idle` the engine takes no bytes from the transport. -/
theorem step_bytes_of_idle (he : s.eng = .idle) {bytes : List Byte} (hp : s.pending = bytes.map Event.rxByte) :
    step s = .next s := by
  refine step_waits fun e hmem => ?_
  rw [hp] at hmem
  obtain ⟨b, -, rfl⟩ := List.mem_map.1 hmem
  rw [he]
  rfl

/-- Settles O52: the phase refuses the commands, `Idle` holds the bytes, and the timer is off. -/
theorem withNoSessionOnlyOpenActs : Obligations.WithNoSessionOnlyOpenActs := fun s hp he ha =>
  ⟨fun _ hi => exec_sessionCommand_notOpen hi he (by simp [hp]), fun _ => step_bytes_of_idle he, tickStep_off ha⟩

end Sys2Proof.Machine
end
